-- ==== Sys2Proof/Word.lean ====
section
/-! DEFINITION. The quantities of DEC86: a byte, a one-bit field, a three-bit selector, and a text (R6, R9). -/

namespace Sys2Proof

/-- A byte of the stream, bit 0 least significant (R6, R9). -/
abbrev Byte := BitVec 8

/-- A one-bit field: W or D (R12). -/
abbrev Bit := BitVec 1

/-- A three-bit register selector, from a REG or an R/M field (R6). -/
abbrev Sel := BitVec 3

/-- The characters of a line, without its terminator (R9, R17). -/
abbrev Text := List Char

end Sys2Proof
end

