-- ==== Sys2Proof/Syntax.lean ====
section
/-! DEFINITION. The instructions DEC86 frames, one constructor per row of spec/opcode_table.json, and the values one step
computes on the way (R50, R60, R67): they are created and consumed inside a step and are not state (R10). -/

namespace Sys2Proof

/-- One constructor per row of the opcode table. The fields are the row's field letters, at their exact widths. `reg` and `rm`
are the REG and R/M fields of the second byte (R43), `lo` and `hi` the immediate's bytes in stream order (R44), `x` the bits an
unsupported row leaves open (R46). -/
inductive Instr where
  /-- `10001000 11rrrmmm` (R108). -/
  | movRm8R8 (reg rm : Sel)
  /-- `10001001 11rrrmmm` (R109). -/
  | movRm16R16 (reg rm : Sel)
  /-- `10001010 11rrrmmm` (R110). -/
  | movR8Rm8 (reg rm : Sel)
  /-- `10001011 11rrrmmm` (R111). -/
  | movR16Rm16 (reg rm : Sel)
  /-- `100010dw 00rrrmmm` (R118). -/
  | movMemMod0 (d w : Bit) (reg rm : Sel)
  /-- `100010dw 01rrrmmm` (R118). -/
  | movMemMod1 (d w : Bit) (reg rm : Sel)
  /-- `100010dw 10rrrmmm` (R118). -/
  | movMemMod2 (d w : Bit) (reg rm : Sel)
  /-- `10110rrr iiiiiiii` (R114). -/
  | movR8Imm8 (reg : Sel) (lo : Byte)
  /-- `10111rrr llllllll hhhhhhhh` (R115). -/
  | movR16Imm16 (reg : Sel) (lo hi : Byte)
  /-- `0xxxxxxx` (R117). -/
  | unsupported0xxxxxxx (x : BitVec 7)
  /-- `10000xxx` (R117). -/
  | unsupported10000xxx (x : BitVec 3)
  /-- `100011xx` (R117). -/
  | unsupported100011xx (x : BitVec 2)
  /-- `1001xxxx` (R117). -/
  | unsupported1001xxxx (x : BitVec 4)
  /-- `1010xxxx` (R117). -/
  | unsupported1010xxxx (x : BitVec 4)
  /-- `11xxxxxx` (R117). -/
  | unsupported11xxxxxx (x : BitVec 6)
  deriving DecidableEq, Repr

/-- The classifier's verdict on a first byte; each variant has only its meaningful fields (R60). -/
inductive InstructionForm where
  | regMemMove (d w : Bit)
  | immediateToRegMove (w : Bit) (reg : Sel)
  | unsupported
  deriving DecidableEq, Repr

/-- The three fields of a MOD/REG/R-M byte (R43, R67). -/
structure ModRM where
  mod : BitVec 2
  reg : Sel
  rm : Sel
  deriving DecidableEq, Repr

/-- One operand of a decoded instruction; there is no memory operand form (R50). -/
inductive Operand where
  | reg (w : Bit) (sel : Sel)
  | imm (w : Bit) (value : BitVec 16)
  deriving DecidableEq, Repr

/-- A destination and a source (R50). -/
structure OperandPair where
  dst : Operand
  src : Operand
  deriving DecidableEq, Repr

/-- The resolver's answer for a MOD/REG/R-M byte (R68, R69). -/
inductive Resolution where
  | pair (p : OperandPair)
  | unsupportedMode
  deriving DecidableEq, Repr

end Sys2Proof
end

