-- ==== Sys2Proof/WellFormed.lean ====
section
/-! DEFINITION. Well-formedness. The fields of Instr have the encodings' exact widths, so every term of Instr is an instruction
of the table (R53: no reserved fields, no must-be-zero bits). What can be ill-formed is an operand pair (R50). -/

namespace Sys2Proof

/-- Every value of every field of every row is admitted (R53, R61, R62). -/
def Instr.wellFormed : Instr → Bool
  | .movRm8R8 _ _ => true
  | .movRm16R16 _ _ => true
  | .movR8Rm8 _ _ => true
  | .movR16Rm16 _ _ => true
  | .movMemMod0 _ _ _ _ => true
  | .movMemMod1 _ _ _ _ => true
  | .movMemMod2 _ _ _ _ => true
  | .movR8Imm8 _ _ => true
  | .movR16Imm16 _ _ _ => true
  | .unsupported0xxxxxxx _ => true
  | .unsupported10000xxx _ => true
  | .unsupported100011xx _ => true
  | .unsupported1001xxxx _ => true
  | .unsupported1010xxxx _ => true
  | .unsupported11xxxxxx _ => true

/-- The width of an operand (R50). -/
def Operand.width : Operand → Bit
  | .reg w _ => w
  | .imm w _ => w

/-- A destination is a register (R50, R54: `operand2` alone may be a decimal). -/
def Operand.isReg : Operand → Bool
  | .reg _ _ => true
  | .imm _ _ => false

/-- An immediate of width 0 is 0 to 255 (R50). -/
def Operand.inRange : Operand → Bool
  | .reg _ _ => true
  | .imm w value => w == 1 || value.toNat ≤ 255

/-- R50: the destination is a register, both operands have the same width, an immediate fits its width. -/
def OperandPair.wellFormed (p : OperandPair) : Bool :=
  p.dst.isReg && p.dst.width == p.src.width && p.src.inRange

end Sys2Proof
end

