-- ==== Sys2Proof/Decode.lean ====
section
/-! DEFINITION. The combinational decoding units: the opcode classifier (R60 to R66), the MOD/REG/R-M extractor (R67), the
decoder of a whole instruction from its bytes, the encoder (R57), and the host's view of a table word. -/

namespace Sys2Proof

/-- `Classify` (R61, R62, R63). -/
def classify (b : Byte) : InstructionForm :=
  if b.extractLsb' 4 4 = 0b1011#4 then .immediateToRegMove (b.extractLsb' 3 1) (b.extractLsb' 0 3)
  else if b.extractLsb' 2 6 = 0b100010#6 then .regMemMove (b.extractLsb' 1 1) (b.extractLsb' 0 1)
  else .unsupported

/-- The bytes still needed after classification (R66). -/
def InstructionForm.furtherBytes : InstructionForm → Nat
  | .regMemMove _ _ => 1
  | .immediateToRegMove w _ => if w = 0 then 1 else 2
  | .unsupported => 0

/-- `ExtractModRM` (R43, R67). -/
def extractModRM (m : Byte) : ModRM :=
  { mod := m.extractLsb' 6 2, reg := m.extractLsb' 3 3, rm := m.extractLsb' 0 3 }

/-- The table's row for a `RegMemMove` with second byte `m`: three rows for MOD = 0, 1, 2 and four, one per first byte, for
MOD = 3 (R40, R42, R43). -/
def regMemInstr (d w : Bit) (m : Byte) : Instr :=
  let f := extractModRM m
  if f.mod = 0 then .movMemMod0 d w f.reg f.rm
  else if f.mod = 1 then .movMemMod1 d w f.reg f.rm
  else if f.mod = 2 then .movMemMod2 d w f.reg f.rm
  else if d = 0 then
    if w = 0 then .movRm8R8 f.reg f.rm else .movRm16R16 f.reg f.rm
  else
    if w = 0 then .movR8Rm8 f.reg f.rm else .movR16Rm16 f.reg f.rm

/-- The table's row for a first byte that `classify` calls unsupported: the six patterns of R46. -/
def unsupportedInstr (b : Byte) : Instr :=
  if b.extractLsb' 7 1 = 0b0#1 then .unsupported0xxxxxxx (b.extractLsb' 0 7)
  else if b.extractLsb' 3 5 = 0b10000#5 then .unsupported10000xxx (b.extractLsb' 0 3)
  else if b.extractLsb' 2 6 = 0b100011#6 then .unsupported100011xx (b.extractLsb' 0 2)
  else if b.extractLsb' 4 4 = 0b1001#4 then .unsupported1001xxxx (b.extractLsb' 0 4)
  else if b.extractLsb' 4 4 = 0b1010#4 then .unsupported1010xxxx (b.extractLsb' 0 4)
  else .unsupported11xxxxxx (b.extractLsb' 0 6)

/-- Why a list of bytes does not begin with a whole instruction. No byte value is ever a reason (R53). -/
inductive Rejection where
  /-- There is no first byte. -/
  | noBytes
  /-- A `RegMemMove` first byte with no second byte. -/
  | missingModRM
  /-- An `ImmediateToRegMove` first byte with no data byte. -/
  | missingImmediateLow
  /-- A 16-bit `ImmediateToRegMove` with one data byte only. -/
  | missingImmediateHigh
  deriving DecidableEq, Repr

/-- The decoder's answer: the first instruction and the bytes after it, or the name of what is missing. -/
inductive Decoded where
  | instr (i : Instr) (rest : List Byte)
  | rejected (r : Rejection)
  deriving DecidableEq, Repr

/-- The first instruction of a list of bytes (R29, R40, R48); the length is decided from the first byte alone. -/
def decode : List Byte → Decoded
  | [] => .rejected .noBytes
  | b :: rest =>
    match classify b with
    | .unsupported => .instr (unsupportedInstr b) rest
    | .regMemMove d w =>
      match rest with
      | [] => .rejected .missingModRM
      | m :: rest' => .instr (regMemInstr d w m) rest'
    | .immediateToRegMove w reg =>
      match rest with
      | [] => .rejected .missingImmediateLow
      | lo :: rest' =>
        if w = 0 then .instr (.movR8Imm8 reg lo) rest'
        else
          match rest' with
          | [] => .rejected .missingImmediateHigh
          | hi :: rest'' => .instr (.movR16Imm16 reg lo hi) rest''

/-- The length of an instruction in bytes (R40, R48). -/
def Instr.length : Instr → Nat
  | .movRm8R8 _ _ => 2
  | .movRm16R16 _ _ => 2
  | .movR8Rm8 _ _ => 2
  | .movR16Rm16 _ _ => 2
  | .movMemMod0 _ _ _ _ => 2
  | .movMemMod1 _ _ _ _ => 2
  | .movMemMod2 _ _ _ _ => 2
  | .movR8Imm8 _ _ => 2
  | .movR16Imm16 _ _ _ => 3
  | .unsupported0xxxxxxx _ => 1
  | .unsupported10000xxx _ => 1
  | .unsupported100011xx _ => 1
  | .unsupported1001xxxx _ => 1
  | .unsupported1010xxxx _ => 1
  | .unsupported11xxxxxx _ => 1

/-- Byte 0 of a `RegMemMove`: `0x88 | (D << 1) | W` (R57). -/
def regMemByte (d w : Bit) : Byte := 0x88#8 ||| (d.setWidth 8 <<< 1) ||| w.setWidth 8

/-- A MOD/REG/R-M byte: `(MOD << 6) | (REG << 3) | R/M` (R57, R67). -/
def modRMByte (mod : BitVec 2) (reg rm : Sel) : Byte :=
  (mod.setWidth 8 <<< 6) ||| (reg.setWidth 8 <<< 3) ||| rm.setWidth 8

/-- Byte 0 of an `ImmediateToRegMove`: `0xB0 | (W << 3) | REG` (R57). -/
def immediateByte (w : Bit) (reg : Sel) : Byte := 0xB0#8 ||| (w.setWidth 8 <<< 3) ||| reg.setWidth 8

/-- The bytes of an instruction in stream order, from the table's `encoding` strings (R40, R57). -/
def encode : Instr → List Byte
  | .movRm8R8 reg rm => [regMemByte 0 0, modRMByte 3 reg rm]
  | .movRm16R16 reg rm => [regMemByte 0 1, modRMByte 3 reg rm]
  | .movR8Rm8 reg rm => [regMemByte 1 0, modRMByte 3 reg rm]
  | .movR16Rm16 reg rm => [regMemByte 1 1, modRMByte 3 reg rm]
  | .movMemMod0 d w reg rm => [regMemByte d w, modRMByte 0 reg rm]
  | .movMemMod1 d w reg rm => [regMemByte d w, modRMByte 1 reg rm]
  | .movMemMod2 d w reg rm => [regMemByte d w, modRMByte 2 reg rm]
  | .movR8Imm8 reg lo => [immediateByte 0 reg, lo]
  | .movR16Imm16 reg lo hi => [immediateByte 1 reg, lo, hi]
  | .unsupported0xxxxxxx x => [x.setWidth 8]
  | .unsupported10000xxx x => [0x80#8 ||| x.setWidth 8]
  | .unsupported100011xx x => [0x8C#8 ||| x.setWidth 8]
  | .unsupported1001xxxx x => [0x90#8 ||| x.setWidth 8]
  | .unsupported1010xxxx x => [0xA0#8 ||| x.setWidth 8]
  | .unsupported11xxxxxx x => [0xC0#8 ||| x.setWidth 8]

/-- A row of the opcode table as it stands there: `mask` and `match` of byte 0 and, where the row has them, of byte 1. -/
structure OpcodeRow where
  mnemonic : String
  mask0 : Byte
  match0 : Byte
  byte1 : Option (Byte × Byte)
  deriving DecidableEq, Repr

/-- The fifteen rows of spec/opcode_table.json, transcribed. -/
def opcodeRows : List OpcodeRow :=
  [ ⟨"MOV_r_m8__r8", 0xFF, 0x88, some (0xC0, 0xC0)⟩,
    ⟨"MOV_r_m16__r16", 0xFF, 0x89, some (0xC0, 0xC0)⟩,
    ⟨"MOV_r8__r_m8", 0xFF, 0x8A, some (0xC0, 0xC0)⟩,
    ⟨"MOV_r16__r_m16", 0xFF, 0x8B, some (0xC0, 0xC0)⟩,
    ⟨"MOV_with_memory_operand__MOD___0", 0xFC, 0x88, some (0xC0, 0x00)⟩,
    ⟨"MOV_with_memory_operand__MOD___1", 0xFC, 0x88, some (0xC0, 0x40)⟩,
    ⟨"MOV_with_memory_operand__MOD___2", 0xFC, 0x88, some (0xC0, 0x80)⟩,
    ⟨"MOV_r8__imm8", 0xF8, 0xB0, none⟩,
    ⟨"MOV_r16__imm16", 0xF8, 0xB8, none⟩,
    ⟨"UNSUPPORTED__first_byte_0xxxxxxx", 0x80, 0x00, none⟩,
    ⟨"UNSUPPORTED__first_byte_10000xxx", 0xF8, 0x80, none⟩,
    ⟨"UNSUPPORTED__first_byte_100011xx", 0xFC, 0x8C, none⟩,
    ⟨"UNSUPPORTED__first_byte_1001xxxx", 0xF0, 0x90, none⟩,
    ⟨"UNSUPPORTED__first_byte_1010xxxx", 0xF0, 0xA0, none⟩,
    ⟨"UNSUPPORTED__first_byte_11xxxxxx", 0xC0, 0xC0, none⟩ ]

/-- A row applies when `b & mask = match` on byte 0 and, where the row names byte 1, on byte 1 (30_encoding.md, opening). -/
def OpcodeRow.applies (r : OpcodeRow) (b0 b1 : Byte) : Bool :=
  (b0 &&& r.mask0 == r.match0) &&
    match r.byte1 with
    | none => true
    | some (mask1, match1) => b1 &&& mask1 == match1

/-- The table's mnemonic of an instruction. -/
def Instr.mnemonic : Instr → String
  | .movRm8R8 _ _ => "MOV_r_m8__r8"
  | .movRm16R16 _ _ => "MOV_r_m16__r16"
  | .movR8Rm8 _ _ => "MOV_r8__r_m8"
  | .movR16Rm16 _ _ => "MOV_r16__r_m16"
  | .movMemMod0 _ _ _ _ => "MOV_with_memory_operand__MOD___0"
  | .movMemMod1 _ _ _ _ => "MOV_with_memory_operand__MOD___1"
  | .movMemMod2 _ _ _ _ => "MOV_with_memory_operand__MOD___2"
  | .movR8Imm8 _ _ => "MOV_r8__imm8"
  | .movR16Imm16 _ _ _ => "MOV_r16__imm16"
  | .unsupported0xxxxxxx _ => "UNSUPPORTED__first_byte_0xxxxxxx"
  | .unsupported10000xxx _ => "UNSUPPORTED__first_byte_10000xxx"
  | .unsupported100011xx _ => "UNSUPPORTED__first_byte_100011xx"
  | .unsupported1001xxxx _ => "UNSUPPORTED__first_byte_1001xxxx"
  | .unsupported1010xxxx _ => "UNSUPPORTED__first_byte_1010xxxx"
  | .unsupported11xxxxxx _ => "UNSUPPORTED__first_byte_11xxxxxx"

/-- Byte `k` of a table word of `nbits` bits; the first byte is the least significant, and every bit above `nbits` is 0. -/
def tableByte (nbits w k : Nat) : Byte := BitVec.ofNat 8 (w % 2 ^ nbits / 2 ^ (8 * k))

/-- A table word laid out as the stream holds it, up to the longest instruction's three bytes (R29, R40). -/
def tableBytes (nbits w : Nat) : List Byte := [tableByte nbits w 0, tableByte nbits w 1, tableByte nbits w 2]

/-- The instruction the decoder reads from a table word. -/
def decodeTableWord (nbits w : Nat) : Option Instr :=
  match decode (tableBytes nbits w) with
  | .instr i _ => some i
  | .rejected _ => none

end Sys2Proof
end

