-- ==== Sys2Proof/Machine/Operands.lean ====
section
/-! DEFINITION. The operand units: the register-name resolver (R70 to R72), the resolver of an operand pair (R68, R69), the
immediate assembler (R78, R79) and the rendering of operands and lines (R99 to R103). -/

namespace Sys2Proof.Machine

/-- `NAME`, the sixteen register names by index `8 * W + selector` (R47). -/
def nameTable : Vector Text 16 :=
  #v["al".toList, "cl".toList, "dl".toList, "bl".toList, "ah".toList, "ch".toList, "dh".toList, "bh".toList,
     "ax".toList, "cx".toList, "dx".toList, "bx".toList, "sp".toList, "bp".toList, "si".toList, "di".toList]

/-- The index of a register's name fits the table. -/
theorem nameIndex_lt (w : Bit) (sel : Sel) : 8 * w.toNat + sel.toNat < 16 := by
  have := w.isLt
  have := sel.isLt
  omega

/-- `RegName(w, sel) = NAME[8 * w + sel]` (R70). -/
def regName (w : Bit) (sel : Sel) : Text := nameTable[8 * w.toNat + sel.toNat]'(nameIndex_lt w sel)

/-- The first letter by the source's own algorithm (R71). -/
def firstLetter (w : Bit) (sel : Sel) : Char :=
  if sel.toNat < 4 ∨ w = 0 then
    match sel.toNat % 4 with
    | 0 => 'a'
    | 1 => 'c'
    | 2 => 'd'
    | _ => 'b'
  else
    match sel.toNat - 4 with
    | 0 => 's'
    | 1 => 'b'
    | 2 => 's'
    | _ => 'd'

/-- The second letter by the source's own algorithm (R72). -/
def secondLetter (w : Bit) (sel : Sel) : Char :=
  if w = 0 then
    if sel.toNat < 4 then 'l' else 'h'
  else
    if sel.toNat < 4 then 'x' else if sel.toNat < 6 then 'p' else 'i'

/-- The register pair of a register-to-register move: D = 1 makes REG the destination, D = 0 makes R/M the destination (R69). -/
def orderByDirection (d w : Bit) (reg rm : Sel) : OperandPair :=
  if d = 1 then { dst := .reg w reg, src := .reg w rm } else { dst := .reg w rm, src := .reg w reg }

/-- `ResolveOperands(d, w, m)` (R68, R69). -/
def resolveOperands (d w : Bit) (m : Byte) : Resolution :=
  let f := extractModRM m
  if f.mod = 3 then .pair (orderByDirection d w f.reg f.rm) else .unsupportedMode

/-- `AssembleImm(0, lo, -)` (R78). -/
def assembleImm8 (lo : Byte) : Operand := .imm 0 (lo.setWidth 16)

/-- `AssembleImm(1, lo, hi)` (R79). -/
def assembleImm16 (lo hi : Byte) : Operand := .imm 1 (lo.setWidth 16 ||| (hi.setWidth 16 <<< 8))

/-- The character of a decimal digit (R101). -/
def digit (k : Nat) : Char := Char.ofNat (0x30 + k)

/-- `dec` with a bound on the number of digits. -/
def decUpTo : Nat → Nat → Text
  | 0, _ => []
  | fuel + 1, n => if n < 10 then [digit n] else decUpTo fuel (n / 10) ++ [digit (n % 10)]

/-- `dec(n)`, the shortest decimal numeral (R101); `n + 1` digits are always enough. -/
def dec (n : Nat) : Text := decUpTo (n + 1) n

/-- `RenderOperand` (R100). -/
def renderOperand : Operand → Text
  | .reg w sel => regName w sel
  | .imm _ value => dec value.toNat

/-- `RenderMov(dst, src)` (R99). -/
def renderMov (p : OperandPair) : Text :=
  "mov".toList ++ " ".toList ++ renderOperand p.dst ++ ",".toList ++ " ".toList ++ renderOperand p.src

end Sys2Proof.Machine
end

