-- ==== Sys2Proof/Config.lean ====
section
/-! DEFINITION. The parameters of R7 that have a fixed value. STREAM and END are in State (the run's input); CURSOR_BITS belongs
to finite implementations, the model's cursor is unbounded (R15); TRAILER_ON_FATAL = false and DIAG_PAYLOAD are followed by
State.raise. The spec leaves no value free inside the block, so there is no opaque constant here. -/

namespace Sys2Proof.Config

/-- The text of the header line (R104). -/
def headerText : Text := "bits 16".toList

/-- The text of a blank line: the second header line and the trailer (R104, R105). -/
def blankText : Text := []

/-- NEWLINE, the byte that ends a line at the text sink (R7, R33). -/
def newline : Byte := 0x0A

end Sys2Proof.Config
end

