-- ==== Sys2Proof/Machine/State.lean ====
section
/-! DEFINITION. The state of DEC86 (R10), its input (R26), its output events (R17), the reasons it stops (R92) and reset (R22). -/

namespace Sys2Proof.Machine

/-- How the byte stream ends (R26, R28). -/
inductive Ending where
  | endOfStream
  | readError
  deriving DecidableEq, Repr

/-- The byte source: `STREAM`, fixed for the run, and `END` (R26, R39). It is the run's input and not the block's own state
(R10); it stands in State because the step reads it there (log entry 1). -/
structure Source where
  stream : List Byte
  ending : Ending
  deriving DecidableEq, Repr

/-- One input event (R8). -/
inductive InputEvent where
  | byte (b : Byte)
  | endOfStream
  | readError
  deriving DecidableEq, Repr

/-- The five error kinds (R122). -/
inductive ErrorKind where
  | unsupportedOpcode
  | unsupportedAddressingMode
  | truncatedInstruction
  | sourceUnavailable
  | sourceReadError
  deriving DecidableEq, Repr

/-- One output event: a completed line, or a diagnostic with its offset (R17, R133). -/
inductive OutputEvent where
  | line (text : Text)
  | diag (kind : ErrorKind) (offset : Nat)
  deriving DecidableEq, Repr

/-- The framer state with the latches that hold a value in it, the form of R95 that R13 calls equivalent to separate latches:
a latch that a state does not list has no value and cannot be read (R12, R13). -/
inductive Fsm where
  | expectOpcode
  | expectModRM (d w : Bit)
  | expectImmediateLow (w : Bit) (reg : Sel)
  | expectImmediateHigh (reg : Sel) (lo : Byte)
  deriving DecidableEq, Repr

/-- `lat.w` (R12); in `ExpectImmediateHigh` it is 1 (R23). -/
def Fsm.latW : Fsm → Option Bit
  | .expectOpcode => none
  | .expectModRM _ w => some w
  | .expectImmediateLow w _ => some w
  | .expectImmediateHigh _ _ => some 1

/-- `lat.d` (R12). -/
def Fsm.latD : Fsm → Option Bit
  | .expectModRM d _ => some d
  | .expectOpcode => none
  | .expectImmediateLow _ _ => none
  | .expectImmediateHigh _ _ => none

/-- `lat.reg` (R12). -/
def Fsm.latReg : Fsm → Option Sel
  | .expectImmediateLow _ reg => some reg
  | .expectImmediateHigh reg _ => some reg
  | .expectOpcode => none
  | .expectModRM _ _ => none

/-- `lat.lo` (R12). -/
def Fsm.latLo : Fsm → Option Byte
  | .expectImmediateHigh _ lo => some lo
  | .expectOpcode => none
  | .expectModRM _ _ => none
  | .expectImmediateLow _ _ => none

/-- The life of a run (R16). -/
inductive RunStatus where
  | running
  | endedClean
  | failed (kind : ErrorKind)
  deriving DecidableEq, Repr

/-- The whole state: the components of R10 (the four latches inside `fsm`), and the source the run reads. -/
structure State where
  /-- `STREAM` and `END`, the input of the run. -/
  source : Source
  /-- `fsm` with `lat.w`, `lat.d`, `lat.reg`, `lat.lo` (R11, R12). -/
  fsm : Fsm
  /-- `cursor`, the number of bytes consumed (R14). -/
  cursor : Nat
  /-- `run` (R16). -/
  run : RunStatus
  /-- `trace`, oldest event first (R17). -/
  trace : List OutputEvent
  deriving DecidableEq, Repr

/-- Why there is no step. Both are raised by the step alone, never by an instruction, and are the spec's own: R92 gives a state
whose run is over no successor. -/
inductive Fault where
  /-- The run has ended cleanly. Raised by `eventStep`; safe: the block takes no step there (R92). -/
  | runEndedClean
  /-- The run has failed. Raised by `eventStep`; safe: the block takes no step there (R92). -/
  | runFailed (kind : ErrorKind)
  deriving DecidableEq, Repr

/-- Refusals. No instruction of this model is refused. -/
inductive Refusal where
  /-- The arm of an instruction with no meaning yet; safe. No arm of exec answers it. -/
  | notModelled (mnemonic : String)
  deriving DecidableEq, Repr

/-- The two header events every trace begins with (R104). -/
def header : List OutputEvent := [.line Config.headerText, .line Config.blankText]

/-- Reset with a source connected: R22 and R140 for the block, the stream and its ending as the host connects them (R143). -/
def State.resetWith (source : Source) : State :=
  { source := source, fsm := .expectOpcode, cursor := 0, run := .running, trace := header }

/-- The machine right after reset. R22 gives every component of the block; the source is the empty stream ended by
`EndOfStream`, a DESIGN CHOICE (log entry 2): the spec leaves `STREAM` and `END` to the run. -/
def State.reset : State := State.resetWith { stream := [], ending := .endOfStream }

end Sys2Proof.Machine
end

