-- ==== Sys2Proof/Machine/Flags.lean ====
section
/-! DEFINITION. DEC86 has no status flags, condition codes or predicates (R18): no instruction computes one. The only status the
block exposes is `run` (R16, R18); this file holds what is read from it, the class of an error kind, and the informative numbers. -/

namespace Sys2Proof.Machine

/-- The class of an error kind: a fatal one ends the run (R122). -/
def ErrorKind.isFatal : ErrorKind → Bool
  | .unsupportedOpcode => false
  | .unsupportedAddressingMode => false
  | .truncatedInstruction => true
  | .sourceUnavailable => true
  | .sourceReadError => true

/-- `ERROR_CODES`, informative (R7, R122). -/
def ErrorKind.code : ErrorKind → Nat
  | .unsupportedOpcode => 1
  | .unsupportedAddressingMode => 2
  | .truncatedInstruction => 3
  | .sourceUnavailable => 4
  | .sourceReadError => 5

/-- `FSM_ENCODING`, informative (R7, R11). -/
def Fsm.code : Fsm → Nat
  | .expectOpcode => 0
  | .expectModRM _ _ => 1
  | .expectImmediateLow _ _ => 2
  | .expectImmediateHigh _ _ => 3

/-- What the host makes of the end of a run (R138). -/
inductive ExitStatus where
  | success
  | failure
  deriving DecidableEq, Repr

/-- The exit status of a run that is over; a run that is not over has none yet (R138). -/
def RunStatus.exitStatus : RunStatus → Option ExitStatus
  | .running => none
  | .endedClean => some .success
  | .failed _ => some .failure

end Sys2Proof.Machine
end

