-- ==== Sys2Proof/Machine/Ops.lean ====
section
/-! DEFINITION. The shared operations: reading the byte source (R27), emitting (R17), advancing (R14), the framer's latches (R12,
R13), and the entry action of an error (R128 to R132). There is no return from an error: a recoverable one is over within its
step and a fatal one ends the run (R137). -/

namespace Sys2Proof.Machine

/-- The byte of the source at an offset; the source is read only (R25). -/
def State.byteAt (s : State) (offset : Nat) : Option Byte := s.source.stream[offset]?

/-- The event the ending delivers (R26, R28). -/
def Ending.event : Ending → InputEvent
  | .endOfStream => .endOfStream
  | .readError => .readError

/-- The read primitive: one byte, the one at `cursor`, or the ending when no byte is left (R27). -/
def State.nextEvent (s : State) : InputEvent :=
  match s.byteAt s.cursor with
  | some b => .byte b
  | none => s.source.ending.event

/-- `emit e` (R17). -/
def State.emit (e : OutputEvent) (s : State) : State := { s with trace := s.trace ++ [e] }

/-- `cursor <- cursor + 1` (R14). -/
def State.advance (s : State) : State := { s with cursor := s.cursor + 1 }

/-- A write of the framer state, with the latches that go with it (R12, R13). -/
def State.setFsm (f : Fsm) (s : State) : State := { s with fsm := f }

/-- A write of `run` (R16). -/
def State.setRun (r : RunStatus) (s : State) : State := { s with run := r }

/-- The step of a byte that does not complete an instruction: the framer and its latches, and the cursor (R85, R87). -/
def State.latch (f : Fsm) (s : State) : State := (s.setFsm f).advance

/-- `raise K(off)`: the entry action of an error kind. R128 and R129 for the recoverable kinds, R130 and R131 for the fatal ones
the block raises; `SourceUnavailable` has no entry inside the block (R132). Nothing is saved and control goes nowhere. -/
def State.raise (kind : ErrorKind) (off : Nat) (s : State) : State :=
  match kind with
  | .unsupportedOpcode => (s.emit (.diag kind off)).setFsm .expectOpcode
  | .unsupportedAddressingMode => (s.emit (.diag kind off)).setFsm .expectOpcode
  | .truncatedInstruction => (s.emit (.diag kind off)).setRun (.failed kind)
  | .sourceReadError => (s.emit (.diag kind off)).setRun (.failed kind)
  | .sourceUnavailable => s

/-- The step that completes a decoded move: one line, the latches back to no value, the byte consumed (R86, R87, R88). -/
def State.completeMove (text : Text) (s : State) : State := ((s.emit (.line text)).setFsm .expectOpcode).advance

/-- The step that ends an instruction with a recoverable error at the byte it consumes (R85, R86, R133). -/
def State.completeError (kind : ErrorKind) (s : State) : State := (s.raise kind s.cursor).advance

/-- The clean end: the trailing blank line (R89, R105). -/
def State.endClean (s : State) : State := (s.emit (.line Config.blankText)).setRun .endedClean

/-- The bytes of the unfinished instruction, as the latches hold them: the latches lose nothing of them (R12, R57). -/
def Fsm.held : Fsm → List Byte
  | .expectOpcode => []
  | .expectModRM d w => [regMemByte d w]
  | .expectImmediateLow w reg => [immediateByte w reg]
  | .expectImmediateHigh reg lo => [immediateByte 1 reg, lo]

end Sys2Proof.Machine
end

