-- ==== Sys2Proof/Machine/ImmediateMove.lean ====
section
/-! DEFINITION. The family ImmediateToRegMove (first bytes 0xB0 to 0xBF; R113 to R115). A meaning is what DEC86 does in the step
that consumes the last data byte (R87 with W = 0, R88 with W = 1; log entry 3). -/

namespace Sys2Proof.Machine

/-- The line of an immediate move (R103). -/
def moveImmediate (w : Bit) (reg : Sel) (value : Operand) (s : State) : Host.Outcome State Fault Refusal :=
  .next (s.completeMove (renderMov { dst := .reg w reg, src := value }))

/-- R114: the whole immediate is the one data byte (R78). -/
def execMovR8Imm8 (reg : Sel) (lo : Byte) (s : State) : Host.Outcome State Fault Refusal :=
  moveImmediate 0 reg (assembleImm8 lo) s

/-- R115: the immediate is `lo + 256 * hi` (R79). -/
def execMovR16Imm16 (reg : Sel) (lo hi : Byte) (s : State) : Host.Outcome State Fault Refusal :=
  moveImmediate 1 reg (assembleImm16 lo hi) s

end Sys2Proof.Machine
end

