-- ==== Sys2Proof/Machine/RegMemMove.lean ====
section
/-! DEFINITION. The family RegMemMove (first bytes 0x88 to 0x8B): the four register moves (R108 to R111) and the three rows with a
memory operand (R118). A meaning is what DEC86 does in the step that consumes the instruction's last byte (R107 step 2, log entry 3);
the byte before it only set the latches (R107 step 1, `State.latch`). -/

namespace Sys2Proof.Machine

/-- A register move prints its pair in the order D gives (R69, R86, R102). -/
def moveRegisters (d w : Bit) (reg rm : Sel) (s : State) : Host.Outcome State Fault Refusal :=
  .next (s.completeMove (renderMov (orderByDirection d w reg rm)))

/-- A memory operand is a recoverable error at the offset of the second byte; no displacement byte is consumed and neither REG
nor R/M is resolved (R118). -/
def rejectMode (s : State) : Host.Outcome State Fault Refusal :=
  .next (s.completeError .unsupportedAddressingMode)

/-- R108: D = 0, W = 0. -/
def execMovRm8R8 (reg rm : Sel) (s : State) : Host.Outcome State Fault Refusal := moveRegisters 0 0 reg rm s

/-- R109: D = 0, W = 1. -/
def execMovRm16R16 (reg rm : Sel) (s : State) : Host.Outcome State Fault Refusal := moveRegisters 0 1 reg rm s

/-- R110: D = 1, W = 0. -/
def execMovR8Rm8 (reg rm : Sel) (s : State) : Host.Outcome State Fault Refusal := moveRegisters 1 0 reg rm s

/-- R111: D = 1, W = 1. -/
def execMovR16Rm16 (reg rm : Sel) (s : State) : Host.Outcome State Fault Refusal := moveRegisters 1 1 reg rm s

/-- R118 with MOD = 0, whatever D, W, REG and R/M. -/
def execMovMemMod0 (_d _w : Bit) (_reg _rm : Sel) (s : State) : Host.Outcome State Fault Refusal := rejectMode s

/-- R118 with MOD = 1, whatever D, W, REG and R/M. -/
def execMovMemMod1 (_d _w : Bit) (_reg _rm : Sel) (s : State) : Host.Outcome State Fault Refusal := rejectMode s

/-- R118 with MOD = 2, whatever D, W, REG and R/M. -/
def execMovMemMod2 (_d _w : Bit) (_reg _rm : Sel) (s : State) : Host.Outcome State Fault Refusal := rejectMode s

end Sys2Proof.Machine
end

