-- ==== Sys2Proof/Machine/Unsupported.lean ====
section
/-! DEFINITION. The six rows of unsupported first bytes (R117). Each takes the recoverable error `UnsupportedOpcode` at the offset
of its one byte (R123, R128) and decoding goes on; the bits the row leaves open change nothing. -/

namespace Sys2Proof.Machine

/-- The recoverable error of an unsupported first byte (R85, R117). -/
def rejectOpcode (s : State) : Host.Outcome State Fault Refusal := .next (s.completeError .unsupportedOpcode)

/-- R117, first bytes 0x00 to 0x7F. -/
def execUnsupported0xxxxxxx (_x : BitVec 7) (s : State) : Host.Outcome State Fault Refusal := rejectOpcode s

/-- R117, first bytes 0x80 to 0x87. -/
def execUnsupported10000xxx (_x : BitVec 3) (s : State) : Host.Outcome State Fault Refusal := rejectOpcode s

/-- R117, first bytes 0x8C to 0x8F. -/
def execUnsupported100011xx (_x : BitVec 2) (s : State) : Host.Outcome State Fault Refusal := rejectOpcode s

/-- R117, first bytes 0x90 to 0x9F. -/
def execUnsupported1001xxxx (_x : BitVec 4) (s : State) : Host.Outcome State Fault Refusal := rejectOpcode s

/-- R117, first bytes 0xA0 to 0xAF. -/
def execUnsupported1010xxxx (_x : BitVec 4) (s : State) : Host.Outcome State Fault Refusal := rejectOpcode s

/-- R117, first bytes 0xC0 to 0xFF. -/
def execUnsupported11xxxxxx (_x : BitVec 6) (s : State) : Host.Outcome State Fault Refusal := rejectOpcode s

end Sys2Proof.Machine
end

