-- ==== Sys2Proof/Machine/Dispatch.lean ====
section
/-! DEFINITION. The dispatch of an instruction to its meaning, one arm per constructor. -/

namespace Sys2Proof.Machine

/-- The effect of the step that completes an instruction. -/
def exec (i : Instr) (s : State) : Host.Outcome State Fault Refusal :=
  match i with
  | .movRm8R8 reg rm => Sys2Proof.Machine.execMovRm8R8 reg rm s
  | .movRm16R16 reg rm => Sys2Proof.Machine.execMovRm16R16 reg rm s
  | .movR8Rm8 reg rm => Sys2Proof.Machine.execMovR8Rm8 reg rm s
  | .movR16Rm16 reg rm => Sys2Proof.Machine.execMovR16Rm16 reg rm s
  | .movMemMod0 d w reg rm => Sys2Proof.Machine.execMovMemMod0 d w reg rm s
  | .movMemMod1 d w reg rm => Sys2Proof.Machine.execMovMemMod1 d w reg rm s
  | .movMemMod2 d w reg rm => Sys2Proof.Machine.execMovMemMod2 d w reg rm s
  | .movR8Imm8 reg lo => Sys2Proof.Machine.execMovR8Imm8 reg lo s
  | .movR16Imm16 reg lo hi => Sys2Proof.Machine.execMovR16Imm16 reg lo hi s
  | .unsupported0xxxxxxx x => Sys2Proof.Machine.execUnsupported0xxxxxxx x s
  | .unsupported10000xxx x => Sys2Proof.Machine.execUnsupported10000xxx x s
  | .unsupported100011xx x => Sys2Proof.Machine.execUnsupported100011xx x s
  | .unsupported1001xxxx x => Sys2Proof.Machine.execUnsupported1001xxxx x s
  | .unsupported1010xxxx x => Sys2Proof.Machine.execUnsupported1010xxxx x s
  | .unsupported11xxxxxx x => Sys2Proof.Machine.execUnsupported11xxxxxx x s

end Sys2Proof.Machine
end

