-- ==== Sys2Proof/Machine/Framer.lean ====
section
/-! DEFINITION. The instruction framer: `Step(state, event)` of R84, with its transitions R85 to R92. A byte that completes an
instruction runs that instruction's meaning; any other byte only sets the latches. -/

namespace Sys2Proof.Machine

/-- A first byte (R85). -/
def opcodeByte (b : Byte) (s : State) : Host.Outcome State Fault Refusal :=
  match classify b with
  | .regMemMove d w => .next (s.latch (.expectModRM d w))
  | .immediateToRegMove w reg => .next (s.latch (.expectImmediateLow w reg))
  | .unsupported => exec (unsupportedInstr b) s

/-- The low, or only, immediate byte (R87). -/
def immediateLowByte (w : Bit) (reg : Sel) (v : Byte) (s : State) : Host.Outcome State Fault Refusal :=
  if w = 0 then exec (.movR8Imm8 reg v) s else .next (s.latch (.expectImmediateHigh reg v))

/-- A `Byte` event in each framer state: R85, R86, R87, R88. -/
def byteStep (b : Byte) (s : State) : Host.Outcome State Fault Refusal :=
  match s.fsm with
  | .expectOpcode => opcodeByte b s
  | .expectModRM d w => exec (regMemInstr d w b) s
  | .expectImmediateLow w reg => immediateLowByte w reg b s
  | .expectImmediateHigh reg lo => exec (.movR16Imm16 reg lo b) s

/-- The `EndOfStream` event: a clean end at an instruction boundary (R89), a truncated instruction anywhere else (R90). -/
def endOfStreamStep (s : State) : Host.Outcome State Fault Refusal :=
  match s.fsm with
  | .expectOpcode => .next s.endClean
  | .expectModRM _ _ => .next (s.raise .truncatedInstruction s.cursor)
  | .expectImmediateLow _ _ => .next (s.raise .truncatedInstruction s.cursor)
  | .expectImmediateHigh _ _ => .next (s.raise .truncatedInstruction s.cursor)

/-- The `ReadError` event, in every framer state (R91). -/
def readErrorStep (s : State) : Host.Outcome State Fault Refusal := .next (s.raise .sourceReadError s.cursor)

/-- `Step(state, event)` (R84); there is no step once the run is over (R92). -/
def eventStep (e : InputEvent) (s : State) : Host.Outcome State Fault Refusal :=
  match s.run with
  | .running =>
    match e with
    | .byte b => byteStep b s
    | .endOfStream => endOfStreamStep s
    | .readError => readErrorStep s
  | .endedClean => .fault .runEndedClean
  | .failed kind => .fault (.runFailed kind)

/-- The framer state once an instruction's bytes but its last are consumed, and how many those are (R29, R48, R85, R87). -/
def awaitingLastByte (bytes : List Byte) : Fsm × Nat :=
  match bytes with
  | [] => (.expectOpcode, 0)
  | b :: rest =>
    match classify b with
    | .regMemMove d w => (.expectModRM d w, 1)
    | .immediateToRegMove w reg => if w = 0 then (.expectImmediateLow w reg, 1) else (.expectImmediateHigh reg (rest.headD 0), 2)
    | .unsupported => (.expectOpcode, 0)

/-- Bytes put into the stream from offset `k` on; a stream shorter than `k` is filled up with zero bytes. -/
def placeBytes (stream : List Byte) (k : Nat) (bytes : List Byte) : List Byte :=
  stream.take k ++ List.replicate (k - stream.length) 0 ++ bytes ++ stream.drop (k + bytes.length)

/-- An instruction's bytes loaded at the cursor, and the framer where it stands when all of them but the last are consumed, so that
the next step consumes the last byte and runs the instruction (log entry 4). -/
def State.placeInstruction (bytes : List Byte) (s : State) : State :=
  let (f, k) := awaitingLastByte bytes
  { s with
    source := { s.source with stream := placeBytes s.source.stream s.cursor bytes }
    fsm := f
    cursor := s.cursor + k
    run := .running }

end Sys2Proof.Machine
end

