-- ==== Sys2Proof/Machine/Step.lean ====
section
/-! DEFINITION. One step of the machine: it reads one input event and reacts to it (R8, R27, R84). -/

namespace Sys2Proof.Machine

/-- One step consumes exactly one input event. -/
def step (s : State) : Host.Outcome State Fault Refusal := eventStep s.nextEvent s

/-- The state whose next step runs the instruction of a table word. The bytes of the instruction are in the stream from the cursor
on, and the framer has consumed all of them but the last, because a step of DEC86 consumes one byte and an instruction is run by
the step that consumes its last one (log entry 4). -/
def State.withFetchWord (s : State) (nbits w : Nat) : State := s.placeInstruction (tableBytes nbits w)

end Sys2Proof.Machine
end

