-- ==== Sys2Proof/Machine/Signals.lean ====
section
/-! DEFINITION. The informative signal picture of R24: one realisation of the event interface. No rule and no other file of the
model depends on it. -/

namespace Sys2Proof.Machine

/-- The input signals of one step (R24). -/
structure InputSignals where
  rst : Bool
  inValid : Bool
  inKind : BitVec 2
  inByte : Byte
  deriving DecidableEq, Repr

/-- The output signals of one step (R24). -/
structure OutputSignals where
  inReady : Bool
  lineValid : Bool
  lineText : Text
  diagValid : Bool
  diagKind : BitVec 3
  diagOffset : Nat
  runStatus : RunStatus
  deriving DecidableEq, Repr

/-- The event that the input signals present: 0 a byte, 1 the end of the stream, 2 a read error; R24 gives the kind 3 no meaning. -/
def InputSignals.event (p : InputSignals) : Option InputEvent :=
  if p.inValid then
    if p.inKind = 0 then some (.byte p.inByte)
    else if p.inKind = 1 then some .endOfStream
    else if p.inKind = 2 then some .readError
    else none
  else none

/-- `in_ready`: the block accepts an event exactly while it runs (R24). -/
def State.inReady (s : State) : Bool := s.run == .running

/-- The output signals of a step from `s` to `t`. R24 does not say when each output is sampled. DESIGN CHOICE (log entry 15):
`in_ready` is the one with which the step began, `run_status` the `run` that the step leaves, and the fields of an event that the
step did not emit are at zero. -/
def outputSignals (s t : State) : OutputSignals :=
  match t.trace.drop s.trace.length with
  | .line text :: _ => ⟨s.inReady, true, text, false, 0, 0, t.run⟩
  | .diag kind off :: _ => ⟨s.inReady, false, [], true, BitVec.ofNat 3 kind.code, off, t.run⟩
  | [] => ⟨s.inReady, false, [], false, 0, 0, t.run⟩

/-- One step at the signals: `rst` resets the block, a presented event is taken when the block is ready, and otherwise nothing
happens. DESIGN CHOICE (log entry 15): `rst` goes before an event presented with it and keeps the connected source; in a cycle with
`rst` high `in_ready` and `run_status` both show the state before the reset, and the header lines that reset puts into the trace are
not presented as lines; in a cycle in which no event is taken both show the unchanged state. -/
def signalStep (p : InputSignals) (s : State) : State × OutputSignals :=
  if p.rst then (State.resetWith s.source, outputSignals s s)
  else
    match p.event with
    | none => (s, outputSignals s s)
    | some e =>
      match eventStep e s with
      | .next t => (t, outputSignals s t)
      | .fault _ => (s, outputSignals s s)
      | .refused _ => (s, outputSignals s s)

end Sys2Proof.Machine
end

