-- ==== Sys2Proof/Machine/Sinks.lean ====
section
/-! DEFINITION. What the two sinks receive of a trace (R17, R33, R34, R106). Both are projections of `trace`; the sinks themselves are
outside the block (R5). -/

namespace Sys2Proof.Machine

/-- The lines of a trace, in order (R17). -/
def lines : List OutputEvent → List Text
  | [] => []
  | .line text :: rest => text :: lines rest
  | .diag _ _ :: rest => lines rest

/-- The diagnostics of a trace, in order (R17, R34). -/
def diagnostics : List OutputEvent → List (ErrorKind × Nat)
  | [] => []
  | .line _ :: rest => diagnostics rest
  | .diag kind off :: rest => (kind, off) :: diagnostics rest

/-- CHARSET: ASCII, one byte per character (R7, R33). -/
def asciiByte (c : Char) : Byte := BitVec.ofNat 8 c.toNat

/-- A line as the text sink receives it: its characters, then NEWLINE (R33). -/
def lineBytes (text : Text) : List Byte := text.map asciiByte ++ [Config.newline]

/-- The bytes the text sink receives (R33). -/
def textSinkBytes (trace : List OutputEvent) : List Byte := (lines trace).flatMap lineBytes

end Sys2Proof.Machine
end

