-- ==== Sys2Proof/Machine/Run.lean ====
section
/-! DEFINITION. A whole run (R96), and the host's part before and after it (R127, R138, R143). -/

namespace Sys2Proof.Machine

/-- The event sequence of a source: one `Byte` event per byte, then the ending (R26). -/
def Source.events (src : Source) : List InputEvent := src.stream.map .byte ++ [src.ending.event]

/-- `Step` folded over a list of events, stopping where there is no step (R96). -/
def foldEvents : List InputEvent → State → Host.Outcome State Fault Refusal
  | [], s => .next s
  | e :: rest, s =>
    match eventStep e s with
    | .next s' => foldEvents rest s'
    | .fault r => .fault r
    | .refused r => .refused r

/-- `Run(STREAM, END)` (R96): reset, then one step per event. The spec returns the trace and `run` of the last state. -/
def runSource (src : Source) : Host.Outcome State Fault Refusal := foldEvents src.events (State.resetWith src)

/-- What became of opening the byte source (R127, R143). -/
inductive Opening where
  | unavailable
  | opened (src : Source)
  deriving DecidableEq, Repr

/-- What a host sees of one process: the trace of the block, if it was started, and the exit status. -/
structure HostReport where
  hostError : Option ErrorKind
  trace : List OutputEvent
  exit : Option ExitStatus
  deriving DecidableEq, Repr

/-- One process: a source that cannot be opened is the host's `SourceUnavailable`, and the block is not started and emits nothing,
not even the header (R127, R132); otherwise reset, the run, and the exit status of its end (R138, R143). -/
def hostProcess : Opening → HostReport
  | .unavailable => { hostError := some .sourceUnavailable, trace := [], exit := some .failure }
  | .opened src =>
    match runSource src with
    | .next s => { hostError := none, trace := s.trace, exit := s.run.exitStatus }
    | .fault _ => { hostError := none, trace := [], exit := none }
    | .refused _ => { hostError := none, trace := [], exit := none }

end Sys2Proof.Machine
end

