-- ==== Sys2Proof/Machine/Listing.lean ====
section
/-! DEFINITION. The listing of a byte sequence instruction by instruction: the whole-instruction view that 95_test_vectors.md uses
in its programs. It is written from the decoder and the table NAME, not from the framer, so that the framer can be held against it. -/

namespace Sys2Proof.Machine

/-- The text of a move between two rendered operands (R54). -/
def moveLine (dst src : Text) : Text := "mov ".toList ++ dst ++ ", ".toList ++ src

/-- `NAME[sel]`, an 8-bit name (R47). -/
def name8 (sel : Sel) : Text := nameTable[sel.toNat]'(by have := sel.isLt; omega)

/-- `NAME[8 + sel]`, a 16-bit name (R47). -/
def name16 (sel : Sel) : Text := nameTable[8 + sel.toNat]'(by have := sel.isLt; omega)

/-- What one instruction puts out when its last byte is at offset `last`: the lines of R108 to R111, R114 and R115, the
diagnostics of R117 and R118. -/
def instrOutput (last : Nat) : Instr → OutputEvent
  | .movRm8R8 reg rm => .line (moveLine (name8 rm) (name8 reg))
  | .movRm16R16 reg rm => .line (moveLine (name16 rm) (name16 reg))
  | .movR8Rm8 reg rm => .line (moveLine (name8 reg) (name8 rm))
  | .movR16Rm16 reg rm => .line (moveLine (name16 reg) (name16 rm))
  | .movMemMod0 _ _ _ _ => .diag .unsupportedAddressingMode last
  | .movMemMod1 _ _ _ _ => .diag .unsupportedAddressingMode last
  | .movMemMod2 _ _ _ _ => .diag .unsupportedAddressingMode last
  | .movR8Imm8 reg lo => .line (moveLine (name8 reg) (dec lo.toNat))
  | .movR16Imm16 reg lo hi => .line (moveLine (name16 reg) (dec (lo.toNat + 256 * hi.toNat)))
  | .unsupported0xxxxxxx _ => .diag .unsupportedOpcode last
  | .unsupported10000xxx _ => .diag .unsupportedOpcode last
  | .unsupported100011xx _ => .diag .unsupportedOpcode last
  | .unsupported1001xxxx _ => .diag .unsupportedOpcode last
  | .unsupported1010xxxx _ => .diag .unsupportedOpcode last
  | .unsupported11xxxxxx _ => .diag .unsupportedOpcode last

/-- The listing of at most `fuel` instructions that start at offset `off`: their events, and the bytes left that begin no whole
instruction. -/
def listUpTo : Nat → Nat → List Byte → List OutputEvent × List Byte
  | 0, _, bytes => ([], bytes)
  | fuel + 1, off, bytes =>
    match decode bytes with
    | .instr i rest =>
      let (events, left) := listUpTo fuel (off + i.length) rest
      (instrOutput (off + i.length - 1) i :: events, left)
    | .rejected _ => ([], bytes)

/-- The listing of a byte sequence that starts at offset 0; every instruction has at least one byte, so its length is fuel enough. -/
def listing (bytes : List Byte) : List OutputEvent × List Byte := listUpTo bytes.length 0 bytes

end Sys2Proof.Machine
end

