-- ==== Sys2Proof/Safety.lean ====
section
/-! DEFINITION. What a lawful state and a sound run are, in the words the statements use (R23, R145, R151). -/

namespace Sys2Proof.Machine

/-- `k` steps, stopping where there is none: `Host.Core.run` of this machine (Laws/Run.lean), on its own state type. -/
def runSteps : Nat → State → Host.Outcome State Fault Refusal
  | 0, s => .next s
  | k + 1, s =>
    match step s with
    | .next t => runSteps k t
    | .fault r => .fault r
    | .refused r => .refused r

/-- The bytes consumed so far (R14). -/
def State.consumed (s : State) : List Byte := s.source.stream.take s.cursor

/-- What the end of a run has put out after the instructions: the trailer of a clean end, the diagnostic of a failed one (R89, R90,
R91). -/
def State.closing (s : State) : List OutputEvent :=
  match s.run with
  | .running => []
  | .endedClean => [.line Config.blankText]
  | .failed kind => [.diag kind s.cursor]

/-- A run that is over is over for the reason its source and framer show (R16, R89, R90, R91). -/
def State.endExplained (s : State) : Prop :=
  match s.run with
  | .running => True
  | .endedClean => s.cursor = s.source.stream.length ∧ s.source.ending = .endOfStream ∧ s.fsm = .expectOpcode
  | .failed .truncatedInstruction =>
    s.cursor = s.source.stream.length ∧ s.source.ending = .endOfStream ∧ s.fsm ≠ .expectOpcode
  | .failed .sourceReadError => s.cursor = s.source.stream.length ∧ s.source.ending = .readError
  | .failed .unsupportedOpcode => False
  | .failed .unsupportedAddressingMode => False
  | .failed .sourceUnavailable => False

/-- The state agrees with the bytes it has consumed: the cursor lies in the stream, the bytes consumed are whole instructions and
the bytes the latches hold, and the trace is the header, the events of those instructions, and what the end has put out (R23). -/
structure State.Accounted (s : State) : Prop where
  cursor_le : s.cursor ≤ s.source.stream.length
  left_held : (listing s.consumed).2 = s.fsm.held
  trace_eq : s.trace = header ++ (listing s.consumed).1 ++ s.closing
  end_explained : s.endExplained

/-- The state after a byte that completes an instruction with a line: R86, R87, R88. -/
def State.afterLine (text : Text) (s : State) : State :=
  { s with fsm := .expectOpcode, cursor := s.cursor + 1, trace := s.trace ++ [.line text] }

/-- The state after a byte that ends an instruction with a recoverable error: R128, R129. -/
def State.afterDiag (kind : ErrorKind) (s : State) : State :=
  { s with fsm := .expectOpcode, cursor := s.cursor + 1, trace := s.trace ++ [.diag kind s.cursor] }

/-- The state after a fatal error: R130, R131. -/
def State.afterFatal (kind : ErrorKind) (s : State) : State :=
  { s with run := .failed kind, trace := s.trace ++ [.diag kind s.cursor] }

/-- The state after a byte that only sets the framer and its latches: R85, R87. -/
def State.afterLatch (f : Fsm) (s : State) : State := { s with fsm := f, cursor := s.cursor + 1 }

/-- The value of a decimal numeral (R101). -/
def numeralValue (text : Text) : Nat := text.foldl (fun v c => 10 * v + (c.toNat - 0x30)) 0

/-- The two families the block recognises, with MOD = 3 in the first (R2, R4, R145). -/
def instrSupported : Instr → Bool
  | .movRm8R8 _ _ => true
  | .movRm16R16 _ _ => true
  | .movR8Rm8 _ _ => true
  | .movR16Rm16 _ _ => true
  | .movR8Imm8 _ _ => true
  | .movR16Imm16 _ _ _ => true
  | .movMemMod0 _ _ _ _ => false
  | .movMemMod1 _ _ _ _ => false
  | .movMemMod2 _ _ _ _ => false
  | .unsupported0xxxxxxx _ => false
  | .unsupported10000xxx _ => false
  | .unsupported100011xx _ => false
  | .unsupported1001xxxx _ => false
  | .unsupported1010xxxx _ => false
  | .unsupported11xxxxxx _ => false

/-- A run that reports no diagnostic: its lines are a faithful listing (R145). -/
def State.faithful (s : State) : Bool := diagnostics s.trace == []

/-- A run that is over and is not a failure (R92). -/
def State.succeeded (s : State) : Bool := s.run.exitStatus == some .success

end Sys2Proof.Machine
end

