-- ==== Sys2Proof/Certificates/Slice0/Obligations.lean ====
section
/-! DEFINITION. The statements for the provers. In a hypothesis, `s.byteAt s.cursor = some b` says that the next event is `Byte(b)`
(R27), and a first byte, a second byte and so on are told apart by `fsm` (R83). The spec-side results (`afterLine`, `afterDiag`,
`afterFatal`, `afterLatch`) are written out in Safety.lean as whole states, so an equation with one of them is also a frame. -/

open Sys2Proof Sys2Proof.Machine

/-! ## Reset and reading the source -/

/-- What the table of R22 leaves in every component of the block, whatever source is connected. Only `fsm` is the source
document's; the other values are the spec's own decisions D3, D11, D12 and D13. The last clause says that the model's reset is one
of these; which source it connects is the model's choice (log entry 2) and is not stated. -/
def Obligations.ResetLeavesTheSpecValues : Prop :=
  (∀ src : Source,
    (State.resetWith src).fsm = .expectOpcode ∧
    (State.resetWith src).fsm.latW = none ∧ (State.resetWith src).fsm.latD = none ∧
    (State.resetWith src).fsm.latReg = none ∧ (State.resetWith src).fsm.latLo = none ∧
    (State.resetWith src).cursor = 0 ∧
    (State.resetWith src).run = .running ∧
    (State.resetWith src).trace = [.line ['b', 'i', 't', 's', ' ', '1', '6'], .line []]) ∧
  ∃ src : Source, State.reset = State.resetWith src

/-- R27: the read primitive. While a byte is left the event of a step is the byte at `cursor`, and the step consumes it; when none
is left the event is the ending. -/
def Obligations.ReadGivesTheByteAtTheCursorOrTheEnding : Prop :=
  ∀ s : State, s.run = .running →
    (∀ h : s.cursor < s.source.stream.length,
      s.nextEvent = .byte (s.source.stream[s.cursor]'h) ∧
      ∃ t, eventStep (.byte (s.source.stream[s.cursor]'h)) s = .next t ∧ step s = .next t ∧ t.cursor = s.cursor + 1) ∧
    (s.cursor = s.source.stream.length → s.source.ending = .endOfStream →
      s.nextEvent = .endOfStream ∧ step s = eventStep .endOfStream s) ∧
    (s.cursor = s.source.stream.length → s.source.ending = .readError →
      s.nextEvent = .readError ∧ step s = eventStep .readError s)

/-! ## The combinational units -/

/-- R61, R62, R63: the three arms of the classifier, with `b[hi:lo]` read as R9 defines it, and the bytes that each form still needs. -/
def Obligations.ClassifierFollowsTheTwoPatterns : Prop :=
  ∀ b : Byte,
    (b.toNat / 16 = 0b1011 →
      classify b = .immediateToRegMove (BitVec.ofNat 1 (b.toNat / 8)) (BitVec.ofNat 3 b.toNat) ∧
        (classify b).furtherBytes = 1 + b.toNat / 8 % 2) ∧
    (b.toNat / 4 = 0b100010 →
      classify b = .regMemMove (BitVec.ofNat 1 (b.toNat / 2)) (BitVec.ofNat 1 b.toNat) ∧
        (classify b).furtherBytes = 1) ∧
    (b.toNat / 16 ≠ 0b1011 → b.toNat / 4 ≠ 0b100010 →
      classify b = .unsupported ∧ (classify b).furtherBytes = 0)

/-- The counts of R46, which the spec derives from R41 and R42: of the 256 first bytes 4 are register or memory moves, 16 are
immediate moves and 236 are unsupported. -/
def Obligations.FirstByteMapHasTheSpecCounts : Prop :=
  ((List.range 256).filter fun n => match classify (BitVec.ofNat 8 n) with
    | .regMemMove _ _ => true
    | .immediateToRegMove _ _ => false
    | .unsupported => false).length = 4 ∧
  ((List.range 256).filter fun n => match classify (BitVec.ofNat 8 n) with
    | .regMemMove _ _ => false
    | .immediateToRegMove _ _ => true
    | .unsupported => false).length = 16 ∧
  ((List.range 256).filter fun n => match classify (BitVec.ofNat 8 n) with
    | .regMemMove _ _ => false
    | .immediateToRegMove _ _ => false
    | .unsupported => true).length = 236

/-- The extractor's fields and that they lose nothing of the byte: R67, whose bit positions the spec infers from the source's
Scenarios A and B (R43). -/
def Obligations.ModRMFieldsLoseNothing : Prop :=
  ∀ m : Byte,
    (extractModRM m).mod.toNat = m.toNat / 64 ∧
    (extractModRM m).reg.toNat = m.toNat / 8 % 8 ∧
    (extractModRM m).rm.toNat = m.toNat % 8 ∧
    m = modRMByte (extractModRM m).mod (extractModRM m).reg (extractModRM m).rm

/-- R47, R70: the sixteen register names, each by its width bit and selector. -/
def Obligations.RegisterNamesAreTheSixteen : Prop :=
  (regName 0 0 = ['a', 'l'] ∧ regName 0 1 = ['c', 'l'] ∧ regName 0 2 = ['d', 'l'] ∧ regName 0 3 = ['b', 'l'] ∧
    regName 0 4 = ['a', 'h'] ∧ regName 0 5 = ['c', 'h'] ∧ regName 0 6 = ['d', 'h'] ∧ regName 0 7 = ['b', 'h']) ∧
  (regName 1 0 = ['a', 'x'] ∧ regName 1 1 = ['c', 'x'] ∧ regName 1 2 = ['d', 'x'] ∧ regName 1 3 = ['b', 'x'] ∧
    regName 1 4 = ['s', 'p'] ∧ regName 1 5 = ['b', 'p'] ∧ regName 1 6 = ['s', 'i'] ∧ regName 1 7 = ['d', 'i']) ∧
  ∀ (w : Bit) (sel : Sel) (i : Fin 16), i.val = 8 * w.toNat + sel.toNat → regName w sel = nameTable[i]

/-- The letter algorithm of R71 and R72 and the table of R47 give the same sixteen names, as the spec infers in R73. -/
def Obligations.NameLettersAgreeWithTheTable : Prop :=
  ∀ (w : Bit) (sel : Sel), [firstLetter w sel, secondLetter w sel] = regName w sel

/-- What the spec infers in R75 (c) and (d): the sixteen names are pairwise distinct, each of two letters of the set a b c d h i l p s x. -/
def Obligations.NamesAreDistinctPairsOfLetters : Prop :=
  (∀ (w w' : Bit) (sel sel' : Sel), regName w sel = regName w' sel' → w = w' ∧ sel = sel') ∧
  ∀ (w : Bit) (sel : Sel),
    (regName w sel).length = 2 ∧
      ∀ c ∈ regName w sel, c ∈ ['a', 'b', 'c', 'd', 'h', 'i', 'l', 'p', 's', 'x']

/-- R69 with R68: the operand pair of a MOD/REG/R-M byte, in the order D gives; and every pair is well formed (R50). -/
def Obligations.OperandPairFollowsTheDirectionBit : Prop :=
  ∀ (d w : Bit) (m : Byte),
    (m.toNat / 64 ≠ 3 → resolveOperands d w m = .unsupportedMode) ∧
    (m.toNat / 64 = 3 → d = 1 →
      resolveOperands d w m =
        .pair { dst := .reg w (BitVec.ofNat 3 (m.toNat / 8)), src := .reg w (BitVec.ofNat 3 m.toNat) }) ∧
    (m.toNat / 64 = 3 → d = 0 →
      resolveOperands d w m =
        .pair { dst := .reg w (BitVec.ofNat 3 m.toNat), src := .reg w (BitVec.ofNat 3 (m.toNat / 8)) }) ∧
    ∀ p : OperandPair, resolveOperands d w m = .pair p → p.wellFormed = true

/-- R78, R79: an immediate is one byte, or two bytes little-endian, unsigned. The one byte of width 0 leads to no second; the two
bytes of width 1 come in two steps, the low one held in `lat.lo` until the high one is combined with it, and a stream that ends
between them is truncated. That the truncated step puts out no trailer, which `afterFatal` says, is the spec's decision D4 (R90, log
entry 11); that a cursor past the end, which no run has, finds the ending too is the model's reading (log entry 6). -/
def Obligations.ImmediateIsUnsignedLittleEndian : Prop :=
  (∀ lo : Byte, ∃ v : BitVec 16, assembleImm8 lo = .imm 0 v ∧ v.toNat = lo.toNat) ∧
  (∀ lo hi : Byte, ∃ v : BitVec 16, assembleImm16 lo hi = .imm 1 v ∧ v.toNat = lo.toNat + 256 * hi.toNat) ∧
  ∀ (s : State) (reg : Sel), s.run = .running →
    (∀ lo : Byte, s.fsm = .expectImmediateLow 0 reg → s.byteAt s.cursor = some lo →
      ∃ t, step s = .next t ∧ t.fsm = .expectOpcode) ∧
    (∀ lo : Byte, s.fsm = .expectImmediateLow 1 reg → s.byteAt s.cursor = some lo →
      ∃ t, step s = .next t ∧ t.fsm.latLo = some lo) ∧
    (∀ lo hi : Byte, s.fsm = .expectImmediateHigh reg lo → s.byteAt s.cursor = some hi →
      step s = .next (s.afterLine (renderMov { dst := .reg 1 reg, src := assembleImm16 lo hi }))) ∧
    (∀ lo : Byte, s.fsm = .expectImmediateHigh reg lo → s.byteAt s.cursor = none → s.source.ending = .endOfStream →
      step s = .next (s.afterFatal .truncatedInstruction))

/-- The numeral of R101, a decision of the spec (D6): `dec` follows its recursion, reads back as its argument, has the lengths
listed and no leading zero, and no digit string of the same value is shorter. -/
def Obligations.DecimalNumeralIsTheShortest : Prop :=
  (∀ n : Nat, dec n = if n < 10 then [digit n] else dec (n / 10) ++ [digit (n % 10)]) ∧
  ∀ n : Nat, n ≤ 65535 →
    numeralValue (dec n) = n ∧
    (∀ c ∈ dec n, 0x30 ≤ c.toNat ∧ c.toNat ≤ 0x39) ∧
    (dec n).length = (if n < 10 then 1 else if n < 100 then 2 else if n < 1000 then 3 else if n < 10000 then 4 else 5) ∧
    (n ≠ 0 → (dec n).head? ≠ some '0') ∧
    ∀ text : Text, text ≠ [] → (∀ c ∈ text, 0x30 ≤ c.toNat ∧ c.toNat ≤ 0x39) → numeralValue text = n →
      (dec n).length ≤ text.length

/-- R99, R100, R102, R103: the text of a line, its two spaces and its comma, the operands in it, and their order by D. -/
def Obligations.LinesHaveTheFormOfTheRules : Prop :=
  (∀ p : OperandPair,
    renderMov p = ['m', 'o', 'v', ' '] ++ renderOperand p.dst ++ [',', ' '] ++ renderOperand p.src) ∧
  (∀ (w : Bit) (sel : Sel), renderOperand (.reg w sel) = regName w sel) ∧
  (∀ (w : Bit) (v : BitVec 16), renderOperand (.imm w v) = dec v.toNat) ∧
  (∀ (w : Bit) (reg rm : Sel),
    renderMov (orderByDirection 1 w reg rm) = ['m', 'o', 'v', ' '] ++ regName w reg ++ [',', ' '] ++ regName w rm ∧
    renderMov (orderByDirection 0 w reg rm) = ['m', 'o', 'v', ' '] ++ regName w rm ++ [',', ' '] ++ regName w reg) ∧
  ∀ (w : Bit) (reg : Sel) (v : BitVec 16),
    renderMov { dst := .reg w reg, src := .imm w v } =
      ['m', 'o', 'v', ' '] ++ regName w reg ++ [',', ' '] ++ dec v.toNat

/-- The line lengths that the spec lists beside its decision D5 in R106: a register-to-register line has 10 characters, an
immediate line 9 to 13. -/
def Obligations.MoveLinesHaveTheSpecLengths : Prop :=
  (∀ (d w : Bit) (reg rm : Sel), (renderMov (orderByDirection d w reg rm)).length = 10) ∧
  ∀ (w : Bit) (reg : Sel) (v : BitVec 16),
    9 ≤ (renderMov { dst := .reg w reg, src := .imm w v }).length ∧
      (renderMov { dst := .reg w reg, src := .imm w v }).length ≤ 13

/-! ## The instructions: each completes, and with what -/

/-- R108 to R111: the second bytes with MOD = 3 decode to the four register moves. In a running block that has consumed the first byte
and finds the second byte `11rrrmmm`, the step runs the instruction, and the instruction completes and prints its line: the equation
with `afterLine` is its result and its frame, for every pair of selectors (the same register twice too). The last two
clauses are where the form fails instead (R107): no second byte comes, or the read of either byte fails. Their whole states rest on
the spec's decisions D4, no trailer on a fatal end, and D17, no truncation report on a read error (R90, R91, R130, R131, log entry 11);
that a cursor past the end, which no run has, finds the ending too is the model's reading (log entry 6). -/
def Obligations.RegisterMovesPrintTheirLine : Prop :=
  (∀ m : Byte, m.toNat / 64 = 3 →
    decode [0x88, m] = .instr (.movRm8R8 (BitVec.ofNat 3 (m.toNat / 8)) (BitVec.ofNat 3 m.toNat)) [] ∧
    decode [0x89, m] = .instr (.movRm16R16 (BitVec.ofNat 3 (m.toNat / 8)) (BitVec.ofNat 3 m.toNat)) [] ∧
    decode [0x8A, m] = .instr (.movR8Rm8 (BitVec.ofNat 3 (m.toNat / 8)) (BitVec.ofNat 3 m.toNat)) [] ∧
    decode [0x8B, m] = .instr (.movR16Rm16 (BitVec.ofNat 3 (m.toNat / 8)) (BitVec.ofNat 3 m.toNat)) []) ∧
  (∀ (reg rm : Sel) (m : Byte) (s : State), m.toNat = 0b11000000 + 8 * reg.toNat + rm.toNat → s.run = .running →
    s.byteAt s.cursor = some m →
    (s.fsm = .expectModRM 0 0 → step s = exec (.movRm8R8 reg rm) s ∧
      exec (.movRm8R8 reg rm) s = .next (s.afterLine (moveLine (name8 rm) (name8 reg)))) ∧
    (s.fsm = .expectModRM 0 1 → step s = exec (.movRm16R16 reg rm) s ∧
      exec (.movRm16R16 reg rm) s = .next (s.afterLine (moveLine (name16 rm) (name16 reg)))) ∧
    (s.fsm = .expectModRM 1 0 → step s = exec (.movR8Rm8 reg rm) s ∧
      exec (.movR8Rm8 reg rm) s = .next (s.afterLine (moveLine (name8 reg) (name8 rm)))) ∧
    (s.fsm = .expectModRM 1 1 → step s = exec (.movR16Rm16 reg rm) s ∧
      exec (.movR16Rm16 reg rm) s = .next (s.afterLine (moveLine (name16 reg) (name16 rm))))) ∧
  ∀ s : State, s.run = .running → s.byteAt s.cursor = none →
    (s.source.ending = .endOfStream → ∀ d w : Bit, s.fsm = .expectModRM d w →
      step s = .next (s.afterFatal .truncatedInstruction)) ∧
    (s.source.ending = .readError → step s = .next (s.afterFatal .sourceReadError))

/-- R114, R115: the immediate moves decode from their bytes. In a running block that has consumed the bytes before and finds the last
data byte, the step runs the instruction, and the instruction completes and prints its register and the unsigned decimal value: the
equation with `afterLine` is its result and its frame. The last two clauses are where the form fails instead (R113): a
data byte does not come, or the read of any of its bytes fails. Their whole states rest on the spec's decisions D4, no trailer on a
fatal end, and D17, no truncation report on a read error (R90, R91, R130, R131, log entry 11); that a cursor past the end, which no run
has, finds the ending too is the model's reading (log entry 6). -/
def Obligations.ImmediateMovesPrintTheirLine : Prop :=
  (∀ b lo hi : Byte,
    (0xB0 ≤ b.toNat → b.toNat ≤ 0xB7 → decode [b, lo] = .instr (.movR8Imm8 (BitVec.ofNat 3 b.toNat) lo) []) ∧
    (0xB8 ≤ b.toNat → b.toNat ≤ 0xBF →
      decode [b, lo, hi] = .instr (.movR16Imm16 (BitVec.ofNat 3 b.toNat) lo hi) [])) ∧
  (∀ (reg : Sel) (lo hi : Byte) (s : State), s.run = .running →
    (s.fsm = .expectImmediateLow 0 reg → s.byteAt s.cursor = some lo → step s = exec (.movR8Imm8 reg lo) s ∧
      exec (.movR8Imm8 reg lo) s = .next (s.afterLine (moveLine (name8 reg) (dec lo.toNat)))) ∧
    (s.fsm = .expectImmediateHigh reg lo → s.byteAt s.cursor = some hi → step s = exec (.movR16Imm16 reg lo hi) s ∧
      exec (.movR16Imm16 reg lo hi) s =
        .next (s.afterLine (moveLine (name16 reg) (dec (lo.toNat + 256 * hi.toNat)))))) ∧
  ∀ s : State, s.run = .running → s.byteAt s.cursor = none →
    (s.source.ending = .endOfStream →
      ((∃ w reg, s.fsm = .expectImmediateLow w reg) ∨ ∃ reg lo, s.fsm = .expectImmediateHigh reg lo) →
      step s = .next (s.afterFatal .truncatedInstruction)) ∧
    (s.source.ending = .readError → step s = .next (s.afterFatal .sourceReadError))

/-- R118: a register or memory move with MOD = 0, 1 or 2 is two bytes long and takes the recoverable error
`UnsupportedAddressingMode` at the offset of its second byte, whatever D, W, REG and R/M; taking it is the instruction's effect,
with which it completes. The second clause is its first step, the third its second. -/
def Obligations.MemoryOperandsReportTheAddressingMode : Prop :=
  (∀ b m : Byte, 0x88 ≤ b.toNat → b.toNat ≤ 0x8B →
    (m.toNat / 64 = 0 → ∃ d w reg rm, decode [b, m] = .instr (.movMemMod0 d w reg rm) []) ∧
    (m.toNat / 64 = 1 → ∃ d w reg rm, decode [b, m] = .instr (.movMemMod1 d w reg rm) []) ∧
    (m.toNat / 64 = 2 → ∃ d w reg rm, decode [b, m] = .instr (.movMemMod2 d w reg rm) [])) ∧
  (∀ (s : State) (b : Byte), s.run = .running → s.fsm = .expectOpcode → s.byteAt s.cursor = some b →
    0x88 ≤ b.toNat → b.toNat ≤ 0x8B →
    step s = .next (s.afterLatch (.expectModRM (BitVec.ofNat 1 (b.toNat / 2)) (BitVec.ofNat 1 b.toNat)))) ∧
  ∀ (d w : Bit) (reg rm : Sel) (m : Byte) (s : State), s.run = .running → s.fsm = .expectModRM d w →
    s.byteAt s.cursor = some m →
    (m.toNat = 0b00000000 + 8 * reg.toNat + rm.toNat → step s = exec (.movMemMod0 d w reg rm) s ∧
      exec (.movMemMod0 d w reg rm) s = .next (s.afterDiag .unsupportedAddressingMode)) ∧
    (m.toNat = 0b01000000 + 8 * reg.toNat + rm.toNat → step s = exec (.movMemMod1 d w reg rm) s ∧
      exec (.movMemMod1 d w reg rm) s = .next (s.afterDiag .unsupportedAddressingMode)) ∧
    (m.toNat = 0b10000000 + 8 * reg.toNat + rm.toNat → step s = exec (.movMemMod2 d w reg rm) s ∧
      exec (.movMemMod2 d w reg rm) s = .next (s.afterDiag .unsupportedAddressingMode))

/-- R117: an unsupported first byte is one byte long and takes the recoverable error `UnsupportedOpcode` at its own offset; taking
it is the instruction's effect, with which it completes, in the one step of a running block that finds the byte at an instruction
boundary. -/
def Obligations.UnsupportedFirstBytesAreReported : Prop :=
  (∀ b : Byte, b.toNat / 16 ≠ 0b1011 → b.toNat / 4 ≠ 0b100010 →
    (b.toNat ≤ 0x7F → ∃ x, decode [b] = .instr (.unsupported0xxxxxxx x) []) ∧
    (0x80 ≤ b.toNat → b.toNat ≤ 0x87 → ∃ x, decode [b] = .instr (.unsupported10000xxx x) []) ∧
    (0x8C ≤ b.toNat → b.toNat ≤ 0x8F → ∃ x, decode [b] = .instr (.unsupported100011xx x) []) ∧
    (0x90 ≤ b.toNat → b.toNat ≤ 0x9F → ∃ x, decode [b] = .instr (.unsupported1001xxxx x) []) ∧
    (0xA0 ≤ b.toNat → b.toNat ≤ 0xAF → ∃ x, decode [b] = .instr (.unsupported1010xxxx x) []) ∧
    (0xC0 ≤ b.toNat → ∃ x, decode [b] = .instr (.unsupported11xxxxxx x) [])) ∧
  ∀ (b : Byte) (s : State), s.run = .running → s.fsm = .expectOpcode → s.byteAt s.cursor = some b →
    (∀ x : BitVec 7, b.toNat = 0b00000000 + x.toNat → step s = exec (.unsupported0xxxxxxx x) s ∧
      exec (.unsupported0xxxxxxx x) s = .next (s.afterDiag .unsupportedOpcode)) ∧
    (∀ x : BitVec 3, b.toNat = 0b10000000 + x.toNat → step s = exec (.unsupported10000xxx x) s ∧
      exec (.unsupported10000xxx x) s = .next (s.afterDiag .unsupportedOpcode)) ∧
    (∀ x : BitVec 2, b.toNat = 0b10001100 + x.toNat → step s = exec (.unsupported100011xx x) s ∧
      exec (.unsupported100011xx x) s = .next (s.afterDiag .unsupportedOpcode)) ∧
    (∀ x : BitVec 4, b.toNat = 0b10010000 + x.toNat → step s = exec (.unsupported1001xxxx x) s ∧
      exec (.unsupported1001xxxx x) s = .next (s.afterDiag .unsupportedOpcode)) ∧
    (∀ x : BitVec 4, b.toNat = 0b10100000 + x.toNat → step s = exec (.unsupported1010xxxx x) s ∧
      exec (.unsupported1010xxxx x) s = .next (s.afterDiag .unsupportedOpcode)) ∧
    (∀ x : BitVec 6, b.toNat = 0b11000000 + x.toNat → step s = exec (.unsupported11xxxxxx x) s ∧
      exec (.unsupported11xxxxxx x) s = .next (s.afterDiag .unsupportedOpcode))

/-- Every instruction completes in every state, with its one event. That `exec` is the step of the last byte, and that it does the same
in states where no run executes the instruction, is the model's reading (log entries 3 and 9). -/
def Obligations.EveryInstructionCompletes : Prop :=
  ∀ (i : Instr) (s : State),
    exec i s = .next { s with fsm := .expectOpcode, cursor := s.cursor + 1, trace := s.trace ++ [instrOutput s.cursor i] }

/-- The frame of every instruction: the source (every byte of it) and `run` are unchanged, the latches go back to no value, and
the trace grows by the instruction's one event at its end. That `exec` is the step of the last byte, and that it does the same in states
where no run executes the instruction, is the model's reading (log entries 3 and 9). -/
def Obligations.InstructionFrame : Prop :=
  ∀ (i : Instr) (s t : State), exec i s = .next t →
    t.source = s.source ∧ (∀ a : Nat, t.byteAt a = s.byteAt a) ∧ t.run = s.run ∧
    t.fsm.latW = none ∧ t.fsm.latD = none ∧ t.fsm.latReg = none ∧ t.fsm.latLo = none ∧
    t.trace = s.trace ++ [instrOutput s.cursor i]

/-- What the spec infers in R56 and R112 (b): a register move has two encodings, one for each value of D, and both do the same. A block
runs the two from different framer states (`lat.d` is 0 in one and 1 in the other), so at any one state at least one side of an
equation is `exec` where no run executes it: the equations rest on the model's choice that `exec` does the same there (log entry 9). -/
def Obligations.TwoEncodingsPrintOneLine : Prop :=
  ∀ (a b : Sel) (s : State),
    encode (.movRm8R8 a b) ≠ encode (.movR8Rm8 b a) ∧ exec (.movRm8R8 a b) s = exec (.movR8Rm8 b a) s ∧
    encode (.movRm16R16 a b) ≠ encode (.movR16Rm16 b a) ∧ exec (.movRm16R16 a b) s = exec (.movR16Rm16 b a) s

/-! ## Decoding and encoding -/

/-- A few words written out from the spec's encodings and examples decode to the instructions they stand for. -/
def Obligations.SampleWordsDecode : Prop :=
  decode [0b10001000#8, 0b11000001#8] = .instr (.movRm8R8 0 1) [] ∧
  decode [0b10001001#8, 0b11011000#8] = .instr (.movRm16R16 3 0) [] ∧
  decode [0b10001010#8, 0b11100101#8] = .instr (.movR8Rm8 4 5) [] ∧
  decode [0b10001011#8, 0b11101100#8] = .instr (.movR16Rm16 5 4) [] ∧
  decode [0b10001010#8, 0b01000110#8] = .instr (.movMemMod1 1 0 0 6) [] ∧
  decode [0b10110000#8, 0b01111111#8] = .instr (.movR8Imm8 0 0x7F) [] ∧
  decode [0b10111000#8, 0b00000101#8, 0b00000000#8] = .instr (.movR16Imm16 0 0x05 0x00) [] ∧
  decode [0b10001100#8] = .instr (.unsupported100011xx 0) []

/-- Decoding the bytes of any instruction, whatever follows them, gives it back with every operand. -/
def Obligations.DecodeOfEncodeIsTheInstruction : Prop :=
  ∀ (i : Instr) (rest : List Byte), i.wellFormed = true → decode (encode i ++ rest) = .instr i rest

/-- Every bit of the bytes that an instruction was decoded from is in the instruction: encoding it gives them back. -/
def Obligations.EncodeOfDecodeIsTheBytes : Prop :=
  ∀ (bytes rest : List Byte) (i : Instr), decode bytes = .instr i rest → encode i ++ rest = bytes

/-- Exactly one row of the opcode table applies to the first two bytes of any input, and it is the row of the decoded instruction. -/
def Obligations.OneOpcodeRowApplies : Prop :=
  ∀ (b0 b1 : Byte) (bytes rest : List Byte) (i : Instr), decode (b0 :: b1 :: bytes) = .instr i rest →
    (opcodeRows.filter (OpcodeRow.applies · b0 b1)).map OpcodeRow.mnemonic = [i.mnemonic]

/-- R48: the length is decided by the first byte alone. -/
def Obligations.LengthComesFromTheFirstByte : Prop :=
  ∀ (b : Byte) (bytes rest : List Byte) (i : Instr), decode (b :: bytes) = .instr i rest →
    i.length + rest.length = bytes.length + 1 ∧
    (0x88 ≤ b.toNat → b.toNat ≤ 0x8B → i.length = 2) ∧
    (0xB0 ≤ b.toNat → b.toNat ≤ 0xB7 → i.length = 2) ∧
    (0xB8 ≤ b.toNat → b.toNat ≤ 0xBF → i.length = 3) ∧
    (b.toNat / 4 ≠ 0b100010 → b.toNat / 16 ≠ 0b1011 → i.length = 1)

/-- The round trip of R57, which the spec infers from R41 to R44 and R50: with D and W, an operand pair determines the bytes and the line determines the pair; an immediate's bytes are its value's
low and high byte. -/
def Obligations.OperandsSurviveReencoding : Prop :=
  (∀ (d w : Bit) (a b : Sel),
    classify (regMemByte d w) = .regMemMove d w ∧
    resolveOperands d w (modRMByte 3 (if d = 1 then a else b) (if d = 1 then b else a)) =
      .pair { dst := .reg w a, src := .reg w b }) ∧
  (∀ (w : Bit) (a b a' b' : Sel),
    renderMov { dst := .reg w a, src := .reg w b } = renderMov { dst := .reg w a', src := .reg w b' } →
      a = a' ∧ b = b') ∧
  ∀ (reg : Sel) (v : BitVec 16), ∃ lo hi : Byte,
    decode [immediateByte 1 reg, BitVec.ofNat 8 v.toNat, BitVec.ofNat 8 (v.toNat / 256)] =
      .instr (.movR16Imm16 reg lo hi) [] ∧
    assembleImm16 lo hi = .imm 1 v

/-! ## The step -/

/-- The step that consumes an instruction's last byte runs that instruction: the bytes the latches hold and the byte read decode to
it. `exec` itself moves past the byte; that it is the step of the last byte is the model's reading (log entry 3). -/
def Obligations.LastByteRunsTheInstruction : Prop :=
  ∀ (s : State) (b : Byte) (i : Instr), s.run = .running → s.byteAt s.cursor = some b →
    decode (s.fsm.held ++ [b]) = .instr i [] → i.wellFormed = true → step s = exec i s

/-- A byte that does not complete an instruction is only added to the bytes that the latches hold. -/
def Obligations.EarlierByteOnlySetsTheLatches : Prop :=
  ∀ (s : State) (b : Byte) (r : Rejection), s.run = .running → s.byteAt s.cursor = some b →
    decode (s.fsm.held ++ [b]) = .rejected r →
    ∃ f : Fsm, f.held = s.fsm.held ++ [b] ∧ step s = .next (s.afterLatch f)

/-- R85: the transition of a first byte. -/
def Obligations.FirstByteTransition : Prop :=
  ∀ (s : State) (b : Byte), s.run = .running → s.fsm = .expectOpcode → s.byteAt s.cursor = some b →
    (∀ d w, classify b = .regMemMove d w → step s = .next (s.afterLatch (.expectModRM d w))) ∧
    (∀ w reg, classify b = .immediateToRegMove w reg → step s = .next (s.afterLatch (.expectImmediateLow w reg))) ∧
    (classify b = .unsupported → step s = .next (s.afterDiag .unsupportedOpcode))

/-- The transition of a MOD/REG/R-M byte, R86; the arm of an unsupported mode is the spec's decision D10. -/
def Obligations.SecondByteTransition : Prop :=
  ∀ (s : State) (d w : Bit) (m : Byte), s.run = .running → s.fsm = .expectModRM d w → s.byteAt s.cursor = some m →
    (∀ p, resolveOperands d w m = .pair p → step s = .next (s.afterLine (renderMov p))) ∧
    (resolveOperands d w m = .unsupportedMode → step s = .next (s.afterDiag .unsupportedAddressingMode))

/-- R87: the transition of the low, or only, immediate byte. -/
def Obligations.ImmediateLowTransition : Prop :=
  ∀ (s : State) (w : Bit) (reg : Sel) (v : Byte), s.run = .running → s.fsm = .expectImmediateLow w reg →
    s.byteAt s.cursor = some v →
    (w = 0 → step s = .next (s.afterLine (renderMov { dst := .reg 0 reg, src := assembleImm8 v }))) ∧
    (w = 1 → step s = .next (s.afterLatch (.expectImmediateHigh reg v)))

/-- R88: the transition of the high immediate byte. -/
def Obligations.ImmediateHighTransition : Prop :=
  ∀ (s : State) (reg : Sel) (lo v : Byte), s.run = .running → s.fsm = .expectImmediateHigh reg lo →
    s.byteAt s.cursor = some v →
    step s = .next (s.afterLine (renderMov { dst := .reg 1 reg, src := assembleImm16 lo v }))

/-- R89: the end of the stream at an instruction boundary is the clean end, with the trailing blank line. -/
def Obligations.CleanEndTransition : Prop :=
  ∀ s : State, s.run = .running → s.fsm = .expectOpcode → s.cursor = s.source.stream.length →
    s.source.ending = .endOfStream → step s = .next { s with run := .endedClean, trace := s.trace ++ [.line []] }

/-- The end of the stream inside an instruction, R90 with R130: a fatal error and no trailing blank line, the spec's decision D4. -/
def Obligations.TruncationTransition : Prop :=
  ∀ s : State, s.run = .running → s.fsm ≠ .expectOpcode → s.cursor = s.source.stream.length →
    s.source.ending = .endOfStream → step s = .next (s.afterFatal .truncatedInstruction)

/-- A read error ends the run in every framer state, R91 with R131; that it is not also a truncation and has no trailer are the
spec's decisions D17 and D4. -/
def Obligations.ReadErrorTransition : Prop :=
  ∀ s : State, s.run = .running → s.cursor = s.source.stream.length → s.source.ending = .readError →
    step s = .next (s.afterFatal .sourceReadError)

/-- There is no step once the run is over, however often it is asked for (a named fault in this model, log entry 8), and only a clean end is no failure: R92, the spec's
decision D13. -/
def Obligations.NoStepOnceTheRunIsOver : Prop :=
  ∀ s : State, s.run ≠ .running →
    (∀ k : Nat, ∃ r : Fault, runSteps (k + 1) s = .fault r) ∧ (s.succeeded = true ↔ s.run = .endedClean)

/-- What the spec infers in R93: a running block consumes every byte it meets, one byte a step. What it infers in R95: the ending closes
the run without moving the cursor. That a cursor past the end, which no run has, finds the ending too is the model's reading (log
entry 6). No step writes the source. -/
def Obligations.EveryByteAdvancesTheCursorByOne : Prop :=
  ∀ s : State, s.run = .running →
    (s.cursor < s.source.stream.length →
      ∃ t, step s = .next t ∧ t.cursor = s.cursor + 1 ∧ t.run = .running ∧ t.source = s.source) ∧
    (s.source.stream.length ≤ s.cursor →
      ∃ t, step s = .next t ∧ t.cursor = s.cursor ∧ t.run ≠ .running ∧ t.source = s.source)

/-- The events of one step in the spec's event-level model (R8, its decisions D1 and D2): a step adds no event or one to the end of the trace. -/
def Obligations.StepAddsAtMostOneEvent : Prop :=
  ∀ s t : State, step s = .next t → ∃ es : List OutputEvent, t.trace = s.trace ++ es ∧ es.length ≤ 1

/-- The diagnostic of R133 and the entry actions R128 to R131 (the spec's decisions D4, D8, D10, D17): a diagnostic records the cursor
before the step; a recoverable error leaves the framer at an instruction boundary and the block running, a fatal one ends the run and
leaves framer, latches and cursor; no step raises `SourceUnavailable`. That a cursor past the end, which no run has, finds the ending
too is the model's reading (log entry 6). -/
def Obligations.DiagnosticRecordsKindAndOffset : Prop :=
  ∀ (s t : State) (kind : ErrorKind) (off : Nat), step s = .next t → t.trace = s.trace ++ [.diag kind off] →
    off = s.cursor ∧ kind ≠ .sourceUnavailable ∧
    (kind.isFatal = false → t.fsm = .expectOpcode ∧ t.run = .running ∧ t.cursor = s.cursor + 1) ∧
    (kind.isFatal = true → t.fsm = s.fsm ∧ t.run = .failed kind ∧ t.cursor = s.cursor)

/-- R123 to R126: each error that the block raises has exactly its cause, and its policy: the two recoverable ones go on at the next
byte as a first byte, the two fatal ones end the run with a failure. That the fatal diagnostic is all that is put out rests on the
spec's decisions D4 and D17 (log entry 11), that a truncated run's exit status is a failure on D19 (R138, log entry 16), and that the
framer keeps its state after a read error on R91 and R131, which carry D4 and D17. That a cursor past the end, which no run has, finds
the ending too is the model's reading (log entry 6). -/
def Obligations.ErrorsHaveExactlyTheirCauses : Prop :=
  ∀ s t : State, step s = .next t →
    ((∃ off, t.trace = s.trace ++ [.diag .unsupportedOpcode off]) ↔
      s.fsm = .expectOpcode ∧ ∃ b, s.byteAt s.cursor = some b ∧ classify b = .unsupported) ∧
    ((∃ off, t.trace = s.trace ++ [.diag .unsupportedAddressingMode off]) ↔
      (∃ d w, s.fsm = .expectModRM d w) ∧ ∃ m, s.byteAt s.cursor = some m ∧ m.toNat / 64 ≠ 3) ∧
    ((∃ off, t.trace = s.trace ++ [.diag .truncatedInstruction off]) ↔
      s.fsm ≠ .expectOpcode ∧ s.byteAt s.cursor = none ∧ s.source.ending = .endOfStream) ∧
    ((∃ off, t.trace = s.trace ++ [.diag .sourceReadError off]) ↔
      s.byteAt s.cursor = none ∧ s.source.ending = .readError) ∧
    ∀ kind off, t.trace = s.trace ++ [.diag kind off] →
      (kind = .unsupportedOpcode ∨ kind = .unsupportedAddressingMode →
        t.run = .running ∧ t.fsm = .expectOpcode ∧ t.cursor = s.cursor + 1) ∧
      (kind = .truncatedInstruction ∨ kind = .sourceReadError →
        t.run = .failed kind ∧ t.run.exitStatus = some .failure ∧ t.fsm = s.fsm)

/-! ## Whole instructions and whole runs -/

/-- An instruction whose bytes stand at the cursor of a running block at an instruction boundary takes as many steps as it has
bytes, and what it leaves differs from the state before in the cursor and in its one event only. -/
def Obligations.InstructionRunsFromItsBytes : Prop :=
  ∀ (i : Instr) (s : State) (rest : List Byte), s.run = .running → s.fsm = .expectOpcode →
    s.source.stream.drop s.cursor = encode i ++ rest →
    runSteps i.length s =
      .next { s with cursor := s.cursor + i.length, trace := s.trace ++ [instrOutput (s.cursor + i.length - 1) i] }

/-- The model's own loading of an instruction (log entry 4): every table word decodes; the state `withFetchWord` gives is the one
that the steps of the instruction's earlier bytes reach from an instruction boundary, and its next step runs the instruction. -/
def Obligations.FetchWordRunsTheTableWord : Prop :=
  ∀ (s : State) (nbits w : Nat), ∃ i : Instr, decodeTableWord nbits w = some i ∧
    step (s.withFetchWord nbits w) = exec i (s.withFetchWord nbits w) ∧
    runSteps (i.length - 1)
      { s with
        source := { s.source with stream := placeBytes s.source.stream s.cursor (tableBytes nbits w) }
        fsm := .expectOpcode
        run := .running } = .next (s.withFetchWord nbits w)

/-- What the spec infers in R96 and R151: a run from reset is over after exactly one step per byte and one for the ending, never earlier, with the cursor at
the stream's length, and has no further step (a named fault in this model, log entry 8). -/
def Obligations.RunTakesOneStepPerEvent : Prop :=
  ∀ src : Source,
    (∀ k : Nat, k ≤ src.stream.length →
      ∃ t, runSteps k (State.resetWith src) = .next t ∧ t.run = .running ∧ t.cursor = k) ∧
    (∃ t, runSteps (src.stream.length + 1) (State.resetWith src) = .next t ∧ t.run ≠ .running ∧
      t.cursor = src.stream.length) ∧
    ∀ k : Nat, ∃ r, runSteps (src.stream.length + 2 + k) (State.resetWith src) = .fault r

/-- The spec's `Run` (R96, an inference of the spec), a fold of `Step` over the events of the source, is what the machine does by itself from reset. -/
def Obligations.RunIsTheFoldOverTheEvents : Prop :=
  ∀ src : Source, runSource src = runSteps (src.stream.length + 1) (State.resetWith src)

/-- The output of a whole run is the header, the listing of its stream instruction by instruction, and the end that the ending and
the bytes left over call for: the framer, byte by byte, and the decoder, instruction by instruction, agree on every stream. That the
header is there whatever the stream is the spec's decision D3 (log entry 10); that a failed run has no trailer, and one that a read
error ends no truncation report, are its decisions D4 and D17 (log entry 11). -/
def Obligations.RunOutputIsTheListingOfItsStream : Prop :=
  ∀ src : Source, ∃ t, runSource src = .next t ∧
    (src.ending = .readError →
      t.run = .failed .sourceReadError ∧
      t.trace = header ++ (listing src.stream).1 ++ [.diag .sourceReadError src.stream.length]) ∧
    (src.ending = .endOfStream → (listing src.stream).2 = [] →
      t.run = .endedClean ∧ t.trace = header ++ (listing src.stream).1 ++ [.line []]) ∧
    (src.ending = .endOfStream → (listing src.stream).2 ≠ [] →
      t.run = .failed .truncatedInstruction ∧
      t.trace = header ++ (listing src.stream).1 ++ [.diag .truncatedInstruction src.stream.length])

/-- The lawful states include every reset state. The header in it is the spec's decision D3 (log entry 10). -/
def Obligations.ResetIsAccountedFor : Prop := ∀ src : Source, (State.resetWith src).Accounted

/-- Every step keeps the lawful states: from any state that agrees with the bytes it has consumed, a step leads to one that does. The header and the ends that a lawful trace shows are the spec's decisions D3, D4 and D17 (log entries 10 and 11). -/
def Obligations.StepKeepsTheAccount : Prop := ∀ s t : State, s.Accounted → step s = .next t → t.Accounted

/-- The invariants that the spec infers in R23, clauses (a) to (e), of every state a run reaches while it is running. -/
def Obligations.RunningStatesKeepTheSpecInvariants : Prop :=
  ∀ (src : Source) (k : Nat) (s : State), runSteps k (State.resetWith src) = .next s → s.run = .running →
    (s.fsm.latW.isSome ↔ s.fsm ≠ .expectOpcode) ∧
    (s.fsm.latD.isSome ↔ ∃ d w, s.fsm = .expectModRM d w) ∧
    (s.fsm.latReg.isSome ↔ (∃ w reg, s.fsm = .expectImmediateLow w reg) ∨ ∃ reg lo, s.fsm = .expectImmediateHigh reg lo) ∧
    (s.fsm.latLo.isSome ↔ ∃ reg lo, s.fsm = .expectImmediateHigh reg lo) ∧
    (∀ reg lo, s.fsm = .expectImmediateHigh reg lo → s.fsm.latW = some 1) ∧
    s.cursor = k ∧ s.consumed.length = k ∧
    (∃ es, s.trace = header ++ es ∧ es.length ≤ s.cursor) ∧
    (∃ is : List Instr, s.consumed = is.flatMap encode ++ s.fsm.held) ∧
    (s.fsm = .expectOpcode → s.fsm.held = []) ∧
    (s.fsm ≠ .expectOpcode → ∃ (i : Instr) (missing : List Byte), missing ≠ [] ∧ encode i = s.fsm.held ++ missing) ∧
    ((∃ d w, s.fsm = .expectModRM d w) ∨ (∃ w reg, s.fsm = .expectImmediateLow w reg) → s.fsm.held.length = 1) ∧
    ((∃ reg lo, s.fsm = .expectImmediateHigh reg lo) → s.fsm.held.length = 2)

/-- The header of R104, placed in the reset state by the spec's decision D3: the two header events begin the trace of every state that a run reaches, an empty stream and a first read error included. -/
def Obligations.HeaderBeginsEveryTrace : Prop :=
  ∀ (src : Source) (k : Nat) (s : State), runSteps k (State.resetWith src) = .next s →
    s.trace.take 2 = [.line ['b', 'i', 't', 's', ' ', '1', '6'], .line []]

/-- `SourceUnavailable` is the host's, by R127 and the spec's decision D18: no run of the block reports it or fails with it, and a process whose source cannot be
opened has no output of the block and fails. -/
def Obligations.SourceUnavailableIsTheHostsAlone : Prop :=
  (∀ (src : Source) (k : Nat) (s : State), runSteps k (State.resetWith src) = .next s →
    (∀ off : Nat, (ErrorKind.sourceUnavailable, off) ∉ diagnostics s.trace) ∧ s.run ≠ .failed .sourceUnavailable) ∧
  (hostProcess .unavailable).hostError = some .sourceUnavailable ∧
  (hostProcess .unavailable).trace = [] ∧ (hostProcess .unavailable).exit = some .failure

/-- The text sink's view of R106, with CHARSET and NEWLINE as the spec's decision D5 takes them: the bytes that the text sink receives of a run that ends cleanly. -/
def Obligations.CleanRunFeedsTheTextSink : Prop :=
  ∀ (src : Source) (t : State), runSource src = .next t → t.run = .endedClean →
    textSinkBytes t.trace =
      [0x62, 0x69, 0x74, 0x73, 0x20, 0x31, 0x36, 0x0A, 0x0A] ++
        (lines (listing src.stream).1).flatMap (fun text => text.map asciiByte ++ [0x0A]) ++ [0x0A]

/-- The exit status of R138, the spec's decision D19: a process succeeds when its stream ends at an instruction boundary without a read error, whatever recoverable errors were
reported, and fails otherwise. -/
def Obligations.ExitStatusFollowsTheEnd : Prop :=
  (∀ src : Source, src.ending = .endOfStream → (listing src.stream).2 = [] →
    (hostProcess (.opened src)).exit = some .success) ∧
  (∀ src : Source, src.ending = .endOfStream → (listing src.stream).2 ≠ [] →
    (hostProcess (.opened src)).exit = some .failure) ∧
  (∀ src : Source, src.ending = .readError → (hostProcess (.opened src)).exit = some .failure) ∧
  (hostProcess .unavailable).exit = some .failure

/-- The last sentences of R145, that the stream of a run without a diagnostic consists of supported forms only, with the converse, which
follows from the rules of the two families: a stream of supported forms that ends is run without a diagnostic. And of every such stream
the output is the header, which is there by the spec's decision D3 (log entry 10), the lines of its instructions, and the trailer. -/
def Obligations.SilentRunIsAFaithfulListing : Prop :=
  ∀ (src : Source) (t : State), runSource src = .next t →
    (t.faithful = true ↔
      src.ending = .endOfStream ∧
      ∃ is : List Instr, (∀ i ∈ is, instrSupported i = true) ∧ src.stream = is.flatMap encode) ∧
    ∀ is : List Instr, (∀ i ∈ is, instrSupported i = true) → src.ending = .endOfStream → src.stream = is.flatMap encode →
      t.trace = header ++ is.map (instrOutput 0) ++ [.line []]

/-- Errors do not leak between instructions and nothing is hidden, as the spec infers in R97 and says in R21: what a block puts out from
now on depends on its framer state and the input to come, not on its past: two states that agree on those put out the same lines, and
the same diagnostics at the same distance from their cursors. For a state at the end of its stream beside one past it, which no run
reaches, this rests on the model's reading that the latter finds the ending too (log entry 6). -/
def Obligations.LaterOutputDoesNotDependOnThePast : Prop :=
  ∀ (k : Nat) (s₁ s₂ t₁ : State), s₁.fsm = s₂.fsm → s₁.run = s₂.run → s₁.source.ending = s₂.source.ending →
    s₁.source.stream.drop s₁.cursor = s₂.source.stream.drop s₂.cursor → runSteps k s₁ = .next t₁ →
    ∃ t₂, runSteps k s₂ = .next t₂ ∧ t₂.fsm = t₁.fsm ∧ t₂.run = t₁.run ∧
      lines (t₂.trace.drop s₂.trace.length) = lines (t₁.trace.drop s₁.trace.length) ∧
      (diagnostics (t₂.trace.drop s₂.trace.length)).map (fun p => (p.1, p.2 - s₂.cursor)) =
        (diagnostics (t₁.trace.drop s₁.trace.length)).map (fun p => (p.1, p.2 - s₁.cursor))

/-- R24 (informative), the state: the block is ready exactly while it runs; `rst` resets it; a cycle without a valid event leaves it
as it is; a valid event of each of the three kinds is taken as the event step of that event while the block is ready, and leaves it
as it is when the run is over (R92, the spec's decision D13). That `rst` keeps the connected source and goes before an event is the
model's choice (log entry 15). The outputs: a step that emits a line presents its text, of at most 13 characters,
and no diagnostic; one that emits a diagnostic presents its code and offset, and no line; one that emits nothing, or a cycle in which no
event is taken, presents neither. When `in_ready` and `run_status` are sampled is the model's choice (log entry 15): the first from the
state before the step, the second from the state after it; in a cycle with `rst`, in which no line and no diagnostic is presented, both
from the state before the reset. -/
def Obligations.SignalsFollowTheEvents : Prop :=
  ∀ (p : InputSignals) (s : State),
    (s.inReady = true ↔ s.run = .running) ∧
    (p.rst = true → (signalStep p s).1 = State.resetWith s.source ∧
      (signalStep p s).2.lineValid = false ∧ (signalStep p s).2.diagValid = false ∧
      (signalStep p s).2.inReady = s.inReady ∧ (signalStep p s).2.runStatus = s.run) ∧
    (p.rst = false → p.inValid = false ∨ s.run ≠ .running → (signalStep p s).1 = s ∧
      (signalStep p s).2.lineValid = false ∧ (signalStep p s).2.diagValid = false ∧
      (signalStep p s).2.inReady = s.inReady ∧ (signalStep p s).2.runStatus = s.run) ∧
    ∀ e : InputEvent, p.rst = false → p.inValid = true → s.run = .running →
      (p.inKind = 0 ∧ e = .byte p.inByte ∨ p.inKind = 1 ∧ e = .endOfStream ∨ p.inKind = 2 ∧ e = .readError) →
      ∃ t, eventStep e s = .next t ∧ (signalStep p s).1 = t ∧
        (∀ text, t.trace = s.trace ++ [.line text] →
          (signalStep p s).2.lineValid = true ∧ (signalStep p s).2.lineText = text ∧ text.length ≤ 13 ∧
          (signalStep p s).2.diagValid = false) ∧
        (∀ kind off, t.trace = s.trace ++ [.diag kind off] →
          (signalStep p s).2.diagValid = true ∧ (signalStep p s).2.diagKind.toNat = kind.code ∧
          (signalStep p s).2.diagOffset = off ∧ (signalStep p s).2.lineValid = false) ∧
        (t.trace = s.trace → (signalStep p s).2.lineValid = false ∧ (signalStep p s).2.diagValid = false) ∧
        (signalStep p s).2.inReady = s.inReady ∧ (signalStep p s).2.runStatus = t.run
end

