-- ==== Sys2Proof/Laws/Decode.lean ====
section
/-! SUPPORT. The decoding units on the bytes that the encoder writes, and the bytes rebuilt from the fields. Each is a closed fact
over a byte or a few fields; the decoder's own lemmas are put together from them. -/

namespace Sys2Proof

theorem classify_regMemByte (d w : Bit) : classify (regMemByte d w) = .regMemMove d w := by
  revert d w; decide

theorem classify_immediateByte (w : Bit) (reg : Sel) : classify (immediateByte w reg) = .immediateToRegMove w reg := by
  revert w reg; decide

theorem extractModRM_modRMByte (mod : BitVec 2) (reg rm : Sel) :
    extractModRM (modRMByte mod reg rm) = { mod := mod, reg := reg, rm := rm } := by
  revert mod reg rm; decide

theorem classify_unsupported_rows (i : Instr) (h : i.length = 1) :
    ∃ b, encode i = [b] ∧ classify b = .unsupported ∧ unsupportedInstr b = i := by
  cases i <;> simp only [Instr.length, OfNat.ofNat_ne_one] at h <;> refine ⟨_, rfl, ?_⟩ <;>
    rename_i x <;> revert x <;> decide

theorem regMemByte_of_classify : ∀ b d w, classify b = .regMemMove d w → regMemByte d w = b := by
  decide

theorem immediateByte_of_classify : ∀ b w reg, classify b = .immediateToRegMove w reg → immediateByte w reg = b := by
  decide

theorem modRMByte_extractModRM : ∀ m, modRMByte (extractModRM m).mod (extractModRM m).reg (extractModRM m).rm = m := by
  decide

theorem encode_unsupportedInstr : ∀ b, classify b = .unsupported → encode (unsupportedInstr b) = [b] := by
  decide

theorem unsupportedInstr_length (b : Byte) : (unsupportedInstr b).length = 1 := by
  unfold unsupportedInstr
  repeat' split
  all_goals rfl

theorem regMemInstr_length (d w : Bit) (m : Byte) : (regMemInstr d w m).length = 2 := by
  unfold regMemInstr
  dsimp only
  repeat' split
  all_goals rfl

namespace Machine

/-- The latches hold at most two bytes of an unfinished instruction. -/
theorem Fsm.held_length_le (f : Fsm) : f.held.length ≤ 2 := by
  cases f <;> simp [Fsm.held]

/-- Only `ExpectOpcode` holds no byte. -/
theorem Fsm.held_eq_nil_iff (f : Fsm) : f.held = [] ↔ f = .expectOpcode := by
  cases f <;> simp [Fsm.held]

end Machine

end Sys2Proof
end

