-- ==== Sys2Proof/Laws/State.lean ====
section
/-! SUPPORT. One lemma per field per update of State, each true by definition, so that no proof unfolds an update. -/

namespace Sys2Proof.Machine

@[simp] theorem State.emit_source (e : OutputEvent) (s : State) : (s.emit e).source = s.source := rfl
@[simp] theorem State.emit_fsm (e : OutputEvent) (s : State) : (s.emit e).fsm = s.fsm := rfl
@[simp] theorem State.emit_cursor (e : OutputEvent) (s : State) : (s.emit e).cursor = s.cursor := rfl
@[simp] theorem State.emit_run (e : OutputEvent) (s : State) : (s.emit e).run = s.run := rfl
@[simp] theorem State.emit_trace (e : OutputEvent) (s : State) : (s.emit e).trace = s.trace ++ [e] := rfl

@[simp] theorem State.advance_source (s : State) : (s.advance).source = s.source := rfl
@[simp] theorem State.advance_fsm (s : State) : (s.advance).fsm = s.fsm := rfl
@[simp] theorem State.advance_cursor (s : State) : (s.advance).cursor = s.cursor + 1 := rfl
@[simp] theorem State.advance_run (s : State) : (s.advance).run = s.run := rfl
@[simp] theorem State.advance_trace (s : State) : (s.advance).trace = s.trace := rfl

@[simp] theorem State.setFsm_source (f : Fsm) (s : State) : (s.setFsm f).source = s.source := rfl
@[simp] theorem State.setFsm_fsm (f : Fsm) (s : State) : (s.setFsm f).fsm = f := rfl
@[simp] theorem State.setFsm_cursor (f : Fsm) (s : State) : (s.setFsm f).cursor = s.cursor := rfl
@[simp] theorem State.setFsm_run (f : Fsm) (s : State) : (s.setFsm f).run = s.run := rfl
@[simp] theorem State.setFsm_trace (f : Fsm) (s : State) : (s.setFsm f).trace = s.trace := rfl

@[simp] theorem State.setRun_source (r : RunStatus) (s : State) : (s.setRun r).source = s.source := rfl
@[simp] theorem State.setRun_fsm (r : RunStatus) (s : State) : (s.setRun r).fsm = s.fsm := rfl
@[simp] theorem State.setRun_cursor (r : RunStatus) (s : State) : (s.setRun r).cursor = s.cursor := rfl
@[simp] theorem State.setRun_run (r : RunStatus) (s : State) : (s.setRun r).run = r := rfl
@[simp] theorem State.setRun_trace (r : RunStatus) (s : State) : (s.setRun r).trace = s.trace := rfl

@[simp] theorem State.resetWith_source (src : Source) : (State.resetWith src).source = src := rfl
@[simp] theorem State.resetWith_fsm (src : Source) : (State.resetWith src).fsm = .expectOpcode := rfl
@[simp] theorem State.resetWith_cursor (src : Source) : (State.resetWith src).cursor = 0 := rfl
@[simp] theorem State.resetWith_run (src : Source) : (State.resetWith src).run = .running := rfl
@[simp] theorem State.resetWith_trace (src : Source) : (State.resetWith src).trace = header := rfl

end Sys2Proof.Machine
end

