-- ==== Sys2Proof/Laws/Ops.lean ====
section
/-! SUPPORT. What each shared operation does, said once. -/

namespace Sys2Proof.Machine

@[simp] theorem State.latch_eq (f : Fsm) (s : State) :
    s.latch f = { s with fsm := f, cursor := s.cursor + 1 } := rfl

@[simp] theorem State.completeMove_eq (text : Text) (s : State) :
    s.completeMove text = { s with fsm := .expectOpcode, cursor := s.cursor + 1, trace := s.trace ++ [.line text] } := rfl

@[simp] theorem State.endClean_eq (s : State) :
    s.endClean = { s with run := .endedClean, trace := s.trace ++ [.line Config.blankText] } := rfl

/-- R128, R129. -/
theorem State.raise_recoverable {kind : ErrorKind} (h : kind.isFatal = false) (off : Nat) (s : State) :
    s.raise kind off = { s with fsm := .expectOpcode, trace := s.trace ++ [.diag kind off] } := by
  cases kind <;> simp_all [ErrorKind.isFatal] <;> rfl

/-- R130, R131. -/
theorem State.raise_fatal {kind : ErrorKind} (h : kind.isFatal = true) (hk : kind ≠ .sourceUnavailable) (off : Nat)
    (s : State) : s.raise kind off = { s with run := .failed kind, trace := s.trace ++ [.diag kind off] } := by
  cases kind <;> simp_all [ErrorKind.isFatal] <;> rfl

/-- R132. -/
@[simp] theorem State.raise_sourceUnavailable (off : Nat) (s : State) : s.raise .sourceUnavailable off = s := rfl

theorem State.completeError_recoverable {kind : ErrorKind} (h : kind.isFatal = false) (s : State) :
    s.completeError kind =
      { s with fsm := .expectOpcode, cursor := s.cursor + 1, trace := s.trace ++ [.diag kind s.cursor] } := by
  unfold State.completeError
  rw [State.raise_recoverable h]
  rfl

/-- R27, where a byte is left. -/
theorem State.nextEvent_byte {s : State} {b : Byte} (h : s.byteAt s.cursor = some b) : s.nextEvent = .byte b := by
  simp [State.nextEvent, h]

/-- R27, where no byte is left. -/
theorem State.nextEvent_ending {s : State} (h : s.byteAt s.cursor = none) : s.nextEvent = s.source.ending.event := by
  simp [State.nextEvent, h]

theorem State.byteAt_eq_none_iff {s : State} {k : Nat} : s.byteAt k = none ↔ s.source.stream.length ≤ k := by
  simp [State.byteAt]

end Sys2Proof.Machine
end

