-- ==== Sys2Proof/Laws/PerInstr.lean ====
section
/-! SUPPORT. A fact about every instruction as syntax, one lemma per constructor: an instruction's encoding has the length that the
first byte announces (R40, R48). -/

namespace Sys2Proof.Laws.EncodeLength

/-- The encoding of an instruction has the instruction's length, and that is 1, 2 or 3 bytes. -/
def Statement (i : Instr) : Prop := (encode i).length = i.length ∧ 1 ≤ i.length ∧ i.length ≤ 3

theorem movRm8R8 (a : Sel) (b : Sel) : Statement (.movRm8R8 a b) :=
  ⟨rfl, by simp [Instr.length], by simp [Instr.length]⟩

theorem movRm16R16 (a : Sel) (b : Sel) : Statement (.movRm16R16 a b) :=
  ⟨rfl, by simp [Instr.length], by simp [Instr.length]⟩

theorem movR8Rm8 (a : Sel) (b : Sel) : Statement (.movR8Rm8 a b) :=
  ⟨rfl, by simp [Instr.length], by simp [Instr.length]⟩

theorem movR16Rm16 (a : Sel) (b : Sel) : Statement (.movR16Rm16 a b) :=
  ⟨rfl, by simp [Instr.length], by simp [Instr.length]⟩

theorem movMemMod0 (a : Bit) (b : Bit) (c : Sel) (e : Sel) : Statement (.movMemMod0 a b c e) :=
  ⟨rfl, by simp [Instr.length], by simp [Instr.length]⟩

theorem movMemMod1 (a : Bit) (b : Bit) (c : Sel) (e : Sel) : Statement (.movMemMod1 a b c e) :=
  ⟨rfl, by simp [Instr.length], by simp [Instr.length]⟩

theorem movMemMod2 (a : Bit) (b : Bit) (c : Sel) (e : Sel) : Statement (.movMemMod2 a b c e) :=
  ⟨rfl, by simp [Instr.length], by simp [Instr.length]⟩

theorem movR8Imm8 (a : Sel) (b : Byte) : Statement (.movR8Imm8 a b) :=
  ⟨rfl, by simp [Instr.length], by simp [Instr.length]⟩

theorem movR16Imm16 (a : Sel) (b : Byte) (c : Byte) : Statement (.movR16Imm16 a b c) :=
  ⟨rfl, by simp [Instr.length], by simp [Instr.length]⟩

theorem unsupported0xxxxxxx (a : BitVec 7) : Statement (.unsupported0xxxxxxx a) :=
  ⟨rfl, by simp [Instr.length], by simp [Instr.length]⟩

theorem unsupported10000xxx (a : BitVec 3) : Statement (.unsupported10000xxx a) :=
  ⟨rfl, by simp [Instr.length], by simp [Instr.length]⟩

theorem unsupported100011xx (a : BitVec 2) : Statement (.unsupported100011xx a) :=
  ⟨rfl, by simp [Instr.length], by simp [Instr.length]⟩

theorem unsupported1001xxxx (a : BitVec 4) : Statement (.unsupported1001xxxx a) :=
  ⟨rfl, by simp [Instr.length], by simp [Instr.length]⟩

theorem unsupported1010xxxx (a : BitVec 4) : Statement (.unsupported1010xxxx a) :=
  ⟨rfl, by simp [Instr.length], by simp [Instr.length]⟩

theorem unsupported11xxxxxx (a : BitVec 6) : Statement (.unsupported11xxxxxx a) :=
  ⟨rfl, by simp [Instr.length], by simp [Instr.length]⟩

end Sys2Proof.Laws.EncodeLength
end

