-- ==== Sys2Proof/Laws/Step.lean ====
section
/-! SUPPORT. What an instruction and a step can do, said once: an inversion lemma each, which proofs cite instead of unfolding. -/

namespace Sys2Proof.Machine

/-- Every instruction appends one event, leaves the framer at an instruction boundary and consumes its last byte. -/
theorem exec_shape (i : Instr) (s : State) :
    ∃ e, exec i s = .next { s with fsm := .expectOpcode, cursor := s.cursor + 1, trace := s.trace ++ [e] } := by
  cases i <;> exact ⟨_, rfl⟩

/-- A step needs a running block (R92). -/
theorem running_of_step_next {s t : State} (h : step s = .next t) : s.run = .running := by
  unfold step eventStep at h
  split at h
  · assumption
  · cases h
  · cases h

/-- A step of a running block that finds a byte. -/
theorem step_byte {s : State} {b : Byte} (hr : s.run = .running) (hb : s.byteAt s.cursor = some b) :
    step s = byteStep b s := by
  simp [step, eventStep, hr, State.nextEvent_byte hb]

/-- A step of a running block that finds no byte: the ending decides (R28). -/
theorem step_ending {s : State} (hr : s.run = .running) (hb : s.byteAt s.cursor = none) :
    step s = match s.source.ending with
      | .endOfStream => endOfStreamStep s
      | .readError => readErrorStep s := by
  simp only [step, eventStep, hr, State.nextEvent_ending hb]
  cases s.source.ending <;> rfl

/-- A byte either completes an instruction, and runs it, or sets the framer and its latches and emits nothing. -/
theorem byteStep_cases (b : Byte) (s : State) :
    (∃ i, byteStep b s = exec i s) ∨ (∃ f, byteStep b s = .next { s with fsm := f, cursor := s.cursor + 1 }) := by
  unfold byteStep opcodeByte immediateLowByte
  split
  · split
    · exact .inr ⟨_, rfl⟩
    · exact .inr ⟨_, rfl⟩
    · exact .inl ⟨_, rfl⟩
  · exact .inl ⟨_, rfl⟩
  · split
    · exact .inl ⟨_, rfl⟩
    · exact .inr ⟨_, rfl⟩
  · exact .inl ⟨_, rfl⟩

/-- Everything a step can do: a byte is consumed with one event or none, or the ending closes the run with one event. -/
theorem step_cases {s t : State} (h : step s = .next t) :
    s.run = .running ∧
      ((s.cursor < s.source.stream.length ∧ ∃ f, t = { s with fsm := f, cursor := s.cursor + 1 }) ∨
        (s.cursor < s.source.stream.length ∧
          ∃ e, t = { s with fsm := .expectOpcode, cursor := s.cursor + 1, trace := s.trace ++ [e] }) ∨
        (s.source.stream.length ≤ s.cursor ∧ s.source.ending = .endOfStream ∧ s.fsm = .expectOpcode ∧
          t = { s with run := .endedClean, trace := s.trace ++ [.line Config.blankText] }) ∨
        (s.source.stream.length ≤ s.cursor ∧ s.source.ending = .endOfStream ∧ s.fsm ≠ .expectOpcode ∧
          t = { s with
            run := .failed .truncatedInstruction
            trace := s.trace ++ [.diag .truncatedInstruction s.cursor] }) ∨
        (s.source.stream.length ≤ s.cursor ∧ s.source.ending = .readError ∧
          t = { s with
            run := .failed .sourceReadError
            trace := s.trace ++ [.diag .sourceReadError s.cursor] })) := by
  have hr := running_of_step_next h
  refine ⟨hr, ?_⟩
  cases hb : s.byteAt s.cursor with
  | some b =>
    have hlt : s.cursor < s.source.stream.length := by
      by_contra hge
      rw [State.byteAt_eq_none_iff.mpr (by omega)] at hb
      cases hb
    rw [step_byte hr hb] at h
    rcases byteStep_cases b s with ⟨i, hi⟩ | ⟨f, hf⟩
    · obtain ⟨e, he⟩ := exec_shape i s
      rw [hi, he] at h
      cases h
      exact .inr (.inl ⟨hlt, e, rfl⟩)
    · rw [hf] at h
      cases h
      exact .inl ⟨hlt, f, rfl⟩
  | none =>
    have hge := State.byteAt_eq_none_iff.mp hb
    rw [step_ending hr hb] at h
    refine .inr (.inr ?_)
    cases he : s.source.ending with
    | readError =>
      simp only [he, readErrorStep] at h
      cases h
      exact .inr (.inr ⟨hge, rfl, rfl⟩)
    | endOfStream =>
      simp only [he, endOfStreamStep] at h
      cases hf : s.fsm <;> simp only [hf] at h <;> cases h
      · exact .inl ⟨hge, rfl, rfl, by simp [hf]⟩
      all_goals exact .inr (.inl ⟨hge, rfl, by simp, by simp [State.raise, State.emit, State.setRun, hf]⟩)

end Sys2Proof.Machine
end

