-- ==== Sys2Proof/Laws/Signals.lean ====
section
/-! SUPPORT. What a cycle at the signals of R24 does to the block and shows, one lemma for each kind of cycle and of step. -/

namespace Sys2Proof.Machine

@[simp] theorem State.inReady_iff (s : State) : s.inReady = true ↔ s.run = .running := by
  simp [State.inReady]

@[simp] theorem outputSignals_inReady (s t : State) : (outputSignals s t).inReady = s.inReady := by
  unfold outputSignals
  split <;> rfl

@[simp] theorem outputSignals_runStatus (s t : State) : (outputSignals s t).runStatus = t.run := by
  unfold outputSignals
  split <;> rfl

/-- A step that emits a line. -/
theorem outputSignals_of_line {s t : State} {text : Text} (h : t.trace = s.trace ++ [.line text]) :
    outputSignals s t = ⟨s.inReady, true, text, false, 0, 0, t.run⟩ := by
  simp [outputSignals, h]

/-- A step that emits a diagnostic. -/
theorem outputSignals_of_diag {s t : State} {kind : ErrorKind} {off : Nat} (h : t.trace = s.trace ++ [.diag kind off]) :
    outputSignals s t = ⟨s.inReady, false, [], true, BitVec.ofNat 3 kind.code, off, t.run⟩ := by
  simp [outputSignals, h]

/-- A step that emits nothing. -/
theorem outputSignals_of_silent {s t : State} (h : t.trace = s.trace) :
    outputSignals s t = ⟨s.inReady, false, [], false, 0, 0, t.run⟩ := by
  simp [outputSignals, h]

/-- The code of an error kind fits the three bits of `diag_kind`. -/
theorem ErrorKind.code_lt (kind : ErrorKind) : kind.code < 8 := by
  cases kind <;> decide

theorem signalStep_of_rst {p : InputSignals} (h : p.rst = true) (s : State) :
    signalStep p s = (State.resetWith s.source, outputSignals s s) := by
  simp [signalStep, h]

theorem signalStep_of_no_event {p : InputSignals} (hr : p.rst = false) (hv : p.event = none) (s : State) :
    signalStep p s = (s, outputSignals s s) := by
  simp [signalStep, hr, hv]

/-- An event that finds the run over is not taken (R92). -/
theorem signalStep_of_not_running {p : InputSignals} (hr : p.rst = false) {s : State} (hs : s.run ≠ .running) :
    signalStep p s = (s, outputSignals s s) := by
  cases he : p.event with
  | none => exact signalStep_of_no_event hr he s
  | some e => cases hrun : s.run <;> simp_all [signalStep, eventStep]

theorem signalStep_of_next {p : InputSignals} {e : InputEvent} {s t : State} (hr : p.rst = false) (he : p.event = some e)
    (ht : eventStep e s = .next t) : signalStep p s = (t, outputSignals s t) := by
  simp [signalStep, hr, he, ht]

end Sys2Proof.Machine
end

