-- ==== Sys2Proof/Tests/Slice0.lean ====
section
/-! SUPPORT. The model's own tests: the smoke test of WellFormed, the words written out from the encodings, the vectors of
95_test_vectors.md, and for every statement with hypotheses a state and operands that meet them (the theorems `witness_…`). Every
expected value is the spec's; the section of 95_test_vectors.md, the rule or the encoding it stands in is named beside it. -/

namespace Sys2Proof.Tests

open Sys2Proof.Machine

/-- A running block that has consumed `before`, stands in framer state `f`, and has `ahead` and then `ending` before it. -/
def block (f : Fsm) (before ahead : List Byte) (ending : Ending) : State :=
  { source := { stream := before ++ ahead, ending := ending }
    fsm := f
    cursor := before.length
    run := .running
    trace := header }

/-- What a step adds to the trace, with the framer state, cursor and `run` after it; none where there is no step. -/
def stepResult (s : State) : Option (List OutputEvent × Fsm × Nat × RunStatus) :=
  match step s with
  | .next t => some (t.trace.drop s.trace.length, t.fsm, t.cursor, t.run)
  | .fault _ => none
  | .refused _ => none

/-- `n` bytes already consumed; which ones they were does not matter to a step. -/
def consumed (n : Nat) : List Byte := List.replicate n 0x00

/-! ## Well-formedness: each check refuses an ill-formed term -/

theorem test_wf_accepts_registers : OperandPair.wellFormed { dst := .reg 1 0, src := .reg 1 3 } = true := by decide

theorem test_wf_accepts_immediate : OperandPair.wellFormed { dst := .reg 0 0, src := .imm 0 255 } = true := by decide

/-- R50: a destination is never an immediate. -/
theorem test_wf_refuses_immediate_destination :
    OperandPair.wellFormed { dst := .imm 1 5, src := .reg 1 3 } = false := by decide

/-- R50: both operands have one width. -/
theorem test_wf_refuses_mixed_widths : OperandPair.wellFormed { dst := .reg 1 0, src := .reg 0 3 } = false := by decide

/-- R50: an immediate of width 0 is 0 to 255. -/
theorem test_wf_refuses_wide_byte : OperandPair.wellFormed { dst := .reg 0 0, src := .imm 0 256 } = false := by decide

/-! ## Decoding: for every row a word written out from its encoding -/

theorem test_decode_movRm8R8 : decode [0b10001000#8, 0b11_000_001#8] = .instr (.movRm8R8 0 1) [] := by decide
theorem test_decode_movRm16R16 : decode [0b10001001#8, 0b11_011_000#8] = .instr (.movRm16R16 3 0) [] := by decide
theorem test_decode_movR8Rm8 : decode [0b10001010#8, 0b11_100_101#8] = .instr (.movR8Rm8 4 5) [] := by decide
theorem test_decode_movR16Rm16 : decode [0b10001011#8, 0b11_101_100#8] = .instr (.movR16Rm16 5 4) [] := by decide
theorem test_decode_movMemMod0 : decode [0b100010_1_0#8, 0b00_100_110#8] = .instr (.movMemMod0 1 0 4 6) [] := by decide
theorem test_decode_movMemMod1 : decode [0b100010_0_1#8, 0b01_111_110#8] = .instr (.movMemMod1 0 1 7 6) [] := by decide
theorem test_decode_movMemMod2 : decode [0b100010_1_1#8, 0b10_110_001#8] = .instr (.movMemMod2 1 1 6 1) [] := by decide
theorem test_decode_movR8Imm8 : decode [0b10110_110#8, 0b01111111#8] = .instr (.movR8Imm8 6 0x7F) [] := by decide
theorem test_decode_movR16Imm16 :
    decode [0b10111_011#8, 0b00110100#8, 0b00010010#8] = .instr (.movR16Imm16 3 0x34 0x12) [] := by decide
theorem test_decode_unsupported0xxxxxxx : decode [0b0_0100110#8] = .instr (.unsupported0xxxxxxx 0x26) [] := by decide
theorem test_decode_unsupported10000xxx : decode [0b10000_111#8] = .instr (.unsupported10000xxx 7) [] := by decide
theorem test_decode_unsupported100011xx : decode [0b100011_10#8] = .instr (.unsupported100011xx 2) [] := by decide
theorem test_decode_unsupported1001xxxx : decode [0b1001_0000#8] = .instr (.unsupported1001xxxx 0) [] := by decide
theorem test_decode_unsupported1010xxxx : decode [0b1010_1111#8] = .instr (.unsupported1010xxxx 15) [] := by decide
theorem test_decode_unsupported11xxxxxx : decode [0b11_000110#8] = .instr (.unsupported11xxxxxx 6) [] := by decide

/-- R112 (e): the second byte is never classified as an opcode. -/
theorem test_decode_second_byte_is_no_opcode : decode [0x88, 0xB0] = .instr (.movMemMod2 0 0 6 0) [] := by decide

/-- R116 (b): data bytes are opaque. -/
theorem test_decode_data_bytes_are_opaque :
    decode [0xB8, 0x88, 0xC0, 0x00] = .instr (.movR16Imm16 0 0x88 0xC0) [0x00] := by decide

theorem test_decode_rejects_no_bytes : decode [] = .rejected .noBytes := by decide
theorem test_decode_rejects_missing_modrm : decode [0x89] = .rejected .missingModRM := by decide
theorem test_decode_rejects_missing_low : decode [0xB0] = .rejected .missingImmediateLow := by decide
theorem test_decode_rejects_missing_high : decode [0xB8, 0x05] = .rejected .missingImmediateHigh := by decide

/-- The numbering of a table word: the first byte is the least significant one. -/
theorem test_table_word : decodeTableWord 16 0xD889 = some (.movRm16R16 3 0) := by decide

/-- The bits above `nbits` are 0. -/
theorem test_table_word_short : decodeTableWord 8 0xFFFFB8 = some (.movR16Imm16 0 0 0) := by decide

theorem test_fetch_word_runs :
    stepResult (State.reset.withFetchWord 24 0x0005B8) =
      some ([.line "mov ax, 5".toList], .expectOpcode, 3, .running) := by decide

/-! ## 95_test_vectors.md section 2.6: the framer's transitions, T1 to T16 -/

theorem test_T1 : stepResult (block .expectOpcode [] [0x8B] .endOfStream) =
    some ([], .expectModRM 1 1, 1, .running) := by decide
theorem test_T2 : stepResult (block .expectOpcode (consumed 7) [0xBE] .endOfStream) =
    some ([], .expectImmediateLow 1 6, 8, .running) := by decide
theorem test_T3 : stepResult (block .expectOpcode (consumed 4) [0x90] .endOfStream) =
    some ([.diag .unsupportedOpcode 4], .expectOpcode, 5, .running) := by decide
theorem test_T4 : stepResult (block .expectOpcode (consumed 9) [] .endOfStream) =
    some ([.line []], .expectOpcode, 9, .endedClean) := by decide
theorem test_T5 : stepResult (block (.expectModRM 1 1) (consumed 1) [0xEC] .endOfStream) =
    some ([.line "mov bp, sp".toList], .expectOpcode, 2, .running) := by decide
theorem test_T6 : stepResult (block (.expectModRM 0 0) (consumed 1) [0xEC] .endOfStream) =
    some ([.line "mov ah, ch".toList], .expectOpcode, 2, .running) := by decide
theorem test_T7 : stepResult (block (.expectModRM 0 1) (consumed 3) [0x7E] .endOfStream) =
    some ([.diag .unsupportedAddressingMode 3], .expectOpcode, 4, .running) := by decide
theorem test_T8 : stepResult (block (.expectModRM 0 1) (consumed 1) [] .endOfStream) =
    some ([.diag .truncatedInstruction 1], .expectModRM 0 1, 1, .failed .truncatedInstruction) := by decide
theorem test_T9 : stepResult (block (.expectImmediateLow 0 5) (consumed 1) [0xFF] .endOfStream) =
    some ([.line "mov ch, 255".toList], .expectOpcode, 2, .running) := by decide
theorem test_T10 : stepResult (block (.expectImmediateLow 1 6) (consumed 8) [0xFF] .endOfStream) =
    some ([], .expectImmediateHigh 6 0xFF, 9, .running) := by decide
theorem test_T11 : stepResult (block (.expectImmediateLow 1 6) (consumed 8) [] .endOfStream) =
    some ([.diag .truncatedInstruction 8], .expectImmediateLow 1 6, 8, .failed .truncatedInstruction) := by decide
theorem test_T12 : stepResult (block (.expectImmediateHigh 6 0xFF) (consumed 9) [0xFF] .endOfStream) =
    some ([.line "mov si, 65535".toList], .expectOpcode, 10, .running) := by decide
theorem test_T13 : stepResult (block (.expectImmediateHigh 6 0xFF) (consumed 9) [] .endOfStream) =
    some ([.diag .truncatedInstruction 9], .expectImmediateHigh 6 0xFF, 9, .failed .truncatedInstruction) := by decide
theorem test_T14 : stepResult (block .expectOpcode [] [] .readError) =
    some ([.diag .sourceReadError 0], .expectOpcode, 0, .failed .sourceReadError) := by decide
theorem test_T15 : stepResult (block (.expectImmediateHigh 0 0x05) (consumed 2) [] .readError) =
    some ([.diag .sourceReadError 2], .expectImmediateHigh 0 0x05, 2, .failed .sourceReadError) := by decide
theorem test_T16 : stepResult ((block .expectOpcode (consumed 1) [0x00] .endOfStream).setRun .endedClean) = none := by decide

/-! ## 95_test_vectors.md sections 2.1 to 2.5 and 2.7 -/

theorem test_regName_bp : regName 1 5 = "bp".toList := by decide
theorem test_regName_si : regName 1 6 = "si".toList := by decide
theorem test_regName_di : regName 1 7 = "di".toList := by decide
theorem test_regName_ch : regName 0 5 = "ch".toList := by decide
theorem test_regName_ah : regName 0 4 = "ah".toList := by decide
theorem test_extract_E5 : extractModRM 0xE5 = { mod := 3, reg := 4, rm := 5 } := by decide
theorem test_resolve_BF : resolveOperands 1 0 0xBF = .unsupportedMode := by decide
theorem test_resolve_C1 : resolveOperands 1 0 0xC1 = .pair { dst := .reg 0 0, src := .reg 0 1 } := by decide
theorem test_assemble_order : assembleImm16 0x34 0x12 = .imm 1 4660 := by decide
theorem test_assemble_top : assembleImm16 0xFF 0xFF = .imm 1 65535 := by decide
theorem test_assemble_byte : assembleImm8 0x80 = .imm 0 128 := by decide
theorem test_dec_zero : dec 0 = "0".toList := by decide
theorem test_dec_9999 : dec 9999 = "9999".toList := by decide
theorem test_dec_10000 : dec 10000 = "10000".toList := by decide
theorem test_render_di : renderMov { dst := .reg 1 7, src := .imm 1 65535 } = "mov di, 65535".toList := by decide
theorem test_line_bytes :
    lineBytes "mov ax, 5".toList = [0x6D, 0x6F, 0x76, 0x20, 0x61, 0x78, 0x2C, 0x20, 0x35, 0x0A] := by decide
theorem test_header_bytes : textSinkBytes header = [0x62, 0x69, 0x74, 0x73, 0x20, 0x31, 0x36, 0x0A, 0x0A] := by decide

/-! ## Rows that the vectors above do not run -/

theorem test_movR8Rm8 : stepResult (block (.expectModRM 1 0) (consumed 1) [0xE5] .endOfStream) =
    some ([.line "mov ah, ch".toList], .expectOpcode, 2, .running) := by decide
theorem test_movRm16R16 : stepResult (block (.expectModRM 0 1) (consumed 1) [0xD8] .endOfStream) =
    some ([.line "mov ax, bx".toList], .expectOpcode, 2, .running) := by decide
theorem test_movMemMod0 : stepResult (block (.expectModRM 1 1) (consumed 2) [0x06] .endOfStream) =
    some ([.diag .unsupportedAddressingMode 2], .expectOpcode, 3, .running) := by decide
theorem test_movMemMod2 : stepResult (block (.expectModRM 0 1) (consumed 1) [0xBF] .endOfStream) =
    some ([.diag .unsupportedAddressingMode 1], .expectOpcode, 2, .running) := by decide
theorem test_unsupported0xxxxxxx : stepResult (block .expectOpcode [] [0x00] .endOfStream) =
    some ([.diag .unsupportedOpcode 0], .expectOpcode, 1, .running) := by decide
theorem test_unsupported10000xxx : stepResult (block .expectOpcode [] [0x87] .endOfStream) =
    some ([.diag .unsupportedOpcode 0], .expectOpcode, 1, .running) := by decide
theorem test_unsupported100011xx : stepResult (block .expectOpcode [] [0x8C] .endOfStream) =
    some ([.diag .unsupportedOpcode 0], .expectOpcode, 1, .running) := by decide
theorem test_unsupported1010xxxx : stepResult (block .expectOpcode [] [0xAF] .endOfStream) =
    some ([.diag .unsupportedOpcode 0], .expectOpcode, 1, .running) := by decide
theorem test_unsupported11xxxxxx : stepResult (block .expectOpcode (consumed 2) [0xFF] .endOfStream) =
    some ([.diag .unsupportedOpcode 2], .expectOpcode, 3, .running) := by decide

/-! ## Witnesses: states and operands that meet the hypotheses of each statement, each clause at a boundary value -/

theorem witness_read_byte :
    let s := block .expectOpcode [0x00] [0x90] .endOfStream
    s.run = .running ∧ s.cursor < s.source.stream.length ∧ s.cursor + 1 = s.source.stream.length := by decide
theorem witness_read_end_of_stream :
    let s := block .expectOpcode [0x00] [] .endOfStream
    s.run = .running ∧ s.cursor = s.source.stream.length ∧ s.source.ending = .endOfStream := by decide
theorem witness_read_read_error :
    let s := block .expectOpcode [] [] .readError
    s.run = .running ∧ s.cursor = s.source.stream.length ∧ s.source.ending = .readError := by decide

theorem witness_classifier_immediate :
    (0xB0#8).toNat / 16 = 0b1011 ∧ (0xB7#8).toNat / 16 = 0b1011 ∧ (0xB8#8).toNat / 16 = 0b1011 ∧
      (0xBF#8).toNat / 16 = 0b1011 := by decide
theorem witness_classifier_register : (0x88#8).toNat / 4 = 0b100010 ∧ (0x8B#8).toNat / 4 = 0b100010 := by decide
theorem witness_classifier_unsupported :
    ∀ b ∈ [0x00#8, 0x87#8, 0x8C#8, 0xAF#8, 0xC0#8, 0xFF#8], b.toNat / 16 ≠ 0b1011 ∧ b.toNat / 4 ≠ 0b100010 := by decide

theorem witness_names : regName 1 7 = regName 1 7 ∧ 'd' ∈ regName 1 7 := by decide

theorem witness_operand_pair :
    (0xBF#8).toNat / 64 ≠ 3 ∧ (0xC0#8).toNat / 64 = 3 ∧ (0xFF#8).toNat / 64 = 3 ∧
      resolveOperands 0 1 0xC0 = .pair { dst := .reg 1 0, src := .reg 1 0 } := by decide

theorem witness_immediate_steps :
    (let s := block (.expectImmediateLow 0 7) [0xB7] [0xFF] .endOfStream
     s.run = .running ∧ s.fsm = .expectImmediateLow 0 7 ∧ s.byteAt s.cursor = some 0xFF) ∧
    (let s := block (.expectImmediateLow 1 7) [0xBF] [0xFF] .endOfStream
     s.run = .running ∧ s.fsm = .expectImmediateLow 1 7 ∧ s.byteAt s.cursor = some 0xFF) ∧
    (let s := block (.expectImmediateHigh 7 0xFF) [0xBF, 0xFF] [0xFF] .endOfStream
     s.run = .running ∧ s.fsm = .expectImmediateHigh 7 0xFF ∧ s.byteAt s.cursor = some 0xFF) ∧
    (let s := block (.expectImmediateHigh 7 0xFF) [0xBF, 0xFF] [] .endOfStream
     s.run = .running ∧ s.fsm = .expectImmediateHigh 7 0xFF ∧ s.byteAt s.cursor = none ∧
       s.source.ending = .endOfStream) := by decide

/-- `007` is a digit string of the value 7, so the last clause of the numeral's statement has inputs beside the numeral itself. -/
theorem witness_numeral :
    (7 : Nat) ≤ 65535 ∧ "007".toList ≠ [] ∧ (∀ c ∈ "007".toList, 0x30 ≤ c.toNat ∧ c.toNat ≤ 0x39) ∧
      numeralValue "007".toList = 7 := ⟨by omega, by decide, by simp, by decide⟩
theorem witness_numeral_top : numeralValue "65535".toList = 65535 ∧ (65535 : Nat) ≤ 65535 := by decide

/-- The lowest and the highest second byte of the register moves, each form waiting for it, and the two ways it does not come. -/
theorem witness_register_moves :
    (0xC0#8).toNat / 64 = 3 ∧ (0xFF#8).toNat / 64 = 3 ∧
    (0xC0#8).toNat = 0b11000000 + 8 * (0#3).toNat + (0#3).toNat ∧
    (0xFF#8).toNat = 0b11000000 + 8 * (7#3).toNat + (7#3).toNat ∧
    (let s := block (.expectModRM 0 0) [0x88] [0xC0] .endOfStream
     s.run = .running ∧ s.byteAt s.cursor = some 0xC0 ∧ s.fsm = .expectModRM 0 0) ∧
    (let s := block (.expectModRM 0 1) [0x89] [0xFF] .endOfStream
     s.run = .running ∧ s.byteAt s.cursor = some 0xFF ∧ s.fsm = .expectModRM 0 1) ∧
    (let s := block (.expectModRM 1 0) [0x8A] [0xC0] .endOfStream
     s.run = .running ∧ s.byteAt s.cursor = some 0xC0 ∧ s.fsm = .expectModRM 1 0) ∧
    (let s := block (.expectModRM 1 1) [0x8B] [0xFF] .endOfStream
     s.run = .running ∧ s.byteAt s.cursor = some 0xFF ∧ s.fsm = .expectModRM 1 1) := by decide
theorem witness_register_moves_no_byte :
    (let s := block (.expectModRM 1 0) [0x8A] [] .endOfStream
     s.run = .running ∧ s.byteAt s.cursor = none ∧ s.source.ending = .endOfStream ∧ s.fsm = .expectModRM 1 0) ∧
    (let s := block (.expectModRM 1 0) [0x8A] [] .readError
     s.run = .running ∧ s.byteAt s.cursor = none ∧ s.source.ending = .readError) := by decide

theorem witness_immediate_moves :
    0xB0 ≤ (0xB0#8).toNat ∧ (0xB7#8).toNat ≤ 0xB7 ∧ 0xB8 ≤ (0xB8#8).toNat ∧ (0xBF#8).toNat ≤ 0xBF ∧
    (let s := block (.expectImmediateLow 0 7) [0xB7] [0xFF] .endOfStream
     s.run = .running ∧ s.fsm = .expectImmediateLow 0 7 ∧ s.byteAt s.cursor = some 0xFF) ∧
    (let s := block (.expectImmediateHigh 0 0x00) [0xB8, 0x00] [0x80] .endOfStream
     s.run = .running ∧ s.fsm = .expectImmediateHigh 0 0x00 ∧ s.byteAt s.cursor = some 0x80) := by decide
theorem witness_immediate_moves_no_byte :
    (let s := block (.expectImmediateLow 0 1) [0xB1] [] .endOfStream
     s.run = .running ∧ s.byteAt s.cursor = none ∧ s.source.ending = .endOfStream ∧ s.fsm = .expectImmediateLow 0 1) ∧
    (let s := block (.expectImmediateHigh 1 2) [0xB9, 0x02] [] .endOfStream
     s.run = .running ∧ s.byteAt s.cursor = none ∧ s.source.ending = .endOfStream ∧ s.fsm = .expectImmediateHigh 1 2) ∧
    (let s := block (.expectImmediateHigh 1 2) [0xB9, 0x02] [] .readError
     s.run = .running ∧ s.byteAt s.cursor = none ∧ s.source.ending = .readError) := by decide

/-- The lowest and the highest second byte of each MOD. -/
theorem witness_memory_operands :
    0x88 ≤ (0x88#8).toNat ∧ (0x8B#8).toNat ≤ 0x8B ∧
    (0x00#8).toNat / 64 = 0 ∧ (0x3F#8).toNat / 64 = 0 ∧ (0x40#8).toNat / 64 = 1 ∧ (0x7F#8).toNat / 64 = 1 ∧
    (0x80#8).toNat / 64 = 2 ∧ (0xBF#8).toNat / 64 = 2 ∧
    (0x3F#8).toNat = 0b00000000 + 8 * (7#3).toNat + (7#3).toNat ∧
    (0x40#8).toNat = 0b01000000 + 8 * (0#3).toNat + (0#3).toNat ∧
    (0x7F#8).toNat = 0b01000000 + 8 * (7#3).toNat + (7#3).toNat ∧
    (0xBF#8).toNat = 0b10000000 + 8 * (7#3).toNat + (7#3).toNat := by decide
theorem witness_memory_operands_steps :
    (let s := block .expectOpcode [] [0x8B] .endOfStream
     s.run = .running ∧ s.fsm = .expectOpcode ∧ s.byteAt s.cursor = some 0x8B) ∧
    (let s := block (.expectModRM 1 0) [0x8A] [0x3F] .endOfStream
     s.run = .running ∧ s.fsm = .expectModRM 1 0 ∧ s.byteAt s.cursor = some 0x3F) ∧
    (let s := block (.expectModRM 0 1) [0x89] [0x7F] .endOfStream
     s.run = .running ∧ s.fsm = .expectModRM 0 1 ∧ s.byteAt s.cursor = some 0x7F) ∧
    (let s := block (.expectModRM 1 1) [0x8B] [0xBF] .endOfStream
     s.run = .running ∧ s.fsm = .expectModRM 1 1 ∧ s.byteAt s.cursor = some 0xBF) := by decide

/-- The lowest and the highest first byte of each row, and a block that finds one of each row. -/
theorem witness_unsupported_rows :
    (∀ b ∈ [0x00#8, 0x7F#8, 0x80#8, 0x87#8, 0x8C#8, 0x8F#8, 0x90#8, 0x9F#8, 0xA0#8, 0xAF#8, 0xC0#8, 0xFF#8],
      b.toNat / 16 ≠ 0b1011 ∧ b.toNat / 4 ≠ 0b100010) ∧
    (0x7F#8).toNat = 0b00000000 + (127#7).toNat ∧ (0x87#8).toNat = 0b10000000 + (7#3).toNat ∧
    (0x8F#8).toNat = 0b10001100 + (3#2).toNat ∧ (0x9F#8).toNat = 0b10010000 + (15#4).toNat ∧
    (0xAF#8).toNat = 0b10100000 + (15#4).toNat ∧ (0xFF#8).toNat = 0b11000000 + (63#6).toNat := by decide
theorem witness_unsupported_step :
    ∀ b ∈ [0x7F#8, 0x87#8, 0x8F#8, 0x9F#8, 0xAF#8, 0xFF#8],
      let s := block .expectOpcode [] [b] .endOfStream
      s.run = .running ∧ s.fsm = .expectOpcode ∧ s.byteAt s.cursor = some b := by decide

/-- The hypothesis of the frame, for a move. -/
theorem witness_frame :
    let s := block (.expectModRM 0 1) [0x89] [0xD8] .endOfStream
    exec (.movRm16R16 3 0) s = .next (s.afterLine "mov ax, bx".toList) := by rfl

theorem witness_encode_well_formed : Instr.wellFormed (.movR16Imm16 7 0xFF 0xFF) = true := by decide
theorem witness_decode_encode : decode [0xBF, 0xFF, 0xFF, 0x90] = .instr (.movR16Imm16 7 0xFF 0xFF) [0x90] := by decide
theorem witness_one_row : decode [0x8B, 0xBF] = .instr (.movMemMod2 1 1 7 7) [] := by decide

theorem witness_length_register :
    decode [0x88, 0x00] = .instr (.movMemMod0 0 0 0 0) [] ∧ decode [0x8B, 0xFF] = .instr (.movR16Rm16 7 7) [] := by decide
theorem witness_length_immediate :
    decode [0xB0, 0x00] = .instr (.movR8Imm8 0 0) [] ∧ decode [0xB7, 0xFF] = .instr (.movR8Imm8 7 0xFF) [] ∧
    decode [0xB8, 0x00, 0x00] = .instr (.movR16Imm16 0 0 0) [] ∧
    decode [0xBF, 0xFF, 0xFF] = .instr (.movR16Imm16 7 0xFF 0xFF) [] := by decide
theorem witness_length_unsupported :
    decode [0x87] = .instr (.unsupported10000xxx 7) [] ∧ decode [0x8C] = .instr (.unsupported100011xx 0) [] ∧
    decode [0xAF] = .instr (.unsupported1010xxxx 15) [] ∧ decode [0xC0] = .instr (.unsupported11xxxxxx 0) [] := by decide

theorem witness_reencoding :
    renderMov { dst := .reg 1 5, src := .reg 1 4 } = renderMov { dst := .reg 1 5, src := .reg 1 4 } := by decide

theorem witness_last_byte :
    let s := block (.expectImmediateHigh 0 0x05) [0xB8, 0x05] [0x00] .endOfStream
    s.run = .running ∧ s.byteAt s.cursor = some 0x00 ∧
      decode (s.fsm.held ++ [0x00]) = .instr (.movR16Imm16 0 0x05 0x00) [] ∧
      Instr.wellFormed (.movR16Imm16 0 0x05 0x00) = true := by decide
theorem witness_last_byte_is_first :
    let s := block .expectOpcode [] [0x90] .endOfStream
    s.run = .running ∧ s.byteAt s.cursor = some 0x90 ∧
      decode (s.fsm.held ++ [0x90]) = .instr (.unsupported1001xxxx 0) [] := by decide
theorem witness_earlier_byte :
    let s := block (.expectImmediateLow 1 0) [0xB8] [0x05] .endOfStream
    s.run = .running ∧ s.byteAt s.cursor = some 0x05 ∧
      decode (s.fsm.held ++ [0x05]) = .rejected .missingImmediateHigh := by decide

theorem witness_first_byte :
    (let s := block .expectOpcode [] [0x8B] .endOfStream
     s.run = .running ∧ s.fsm = .expectOpcode ∧ s.byteAt s.cursor = some 0x8B ∧ classify 0x8B = .regMemMove 1 1) ∧
    (let s := block .expectOpcode [] [0xB8] .endOfStream
     s.run = .running ∧ s.byteAt s.cursor = some 0xB8 ∧ classify 0xB8 = .immediateToRegMove 1 0) ∧
    (let s := block .expectOpcode [] [0x8C] .endOfStream
     s.run = .running ∧ s.byteAt s.cursor = some 0x8C ∧ classify 0x8C = .unsupported) := by decide
theorem witness_second_byte :
    (let s := block (.expectModRM 1 1) [0x8B] [0xC0] .endOfStream
     s.run = .running ∧ s.fsm = .expectModRM 1 1 ∧ s.byteAt s.cursor = some 0xC0 ∧
       resolveOperands 1 1 0xC0 = .pair { dst := .reg 1 0, src := .reg 1 0 }) ∧
    (let s := block (.expectModRM 1 1) [0x8B] [0xBF] .endOfStream
     s.run = .running ∧ s.byteAt s.cursor = some 0xBF ∧ resolveOperands 1 1 0xBF = .unsupportedMode) := by decide
theorem witness_clean_end :
    let s := block .expectOpcode [0x90] [] .endOfStream
    s.run = .running ∧ s.fsm = .expectOpcode ∧ s.cursor = s.source.stream.length ∧ s.source.ending = .endOfStream := by decide
theorem witness_truncation :
    let s := block (.expectImmediateHigh 0 0x05) [0xB8, 0x05] [] .endOfStream
    s.run = .running ∧ s.fsm ≠ .expectOpcode ∧ s.cursor = s.source.stream.length ∧ s.source.ending = .endOfStream := by decide
theorem witness_read_error :
    let s := block (.expectModRM 0 0) [0x88] [] .readError
    s.run = .running ∧ s.cursor = s.source.stream.length ∧ s.source.ending = .readError := by decide
theorem witness_run_over :
    ((block .expectOpcode [0x90] [] .endOfStream).setRun .endedClean).run ≠ .running ∧
    ((block (.expectModRM 0 0) [0x88] [] .readError).setRun (.failed .sourceReadError)).run ≠ .running := by decide

theorem witness_every_byte :
    (let s := block .expectOpcode [] [0x00] .endOfStream
     s.run = .running ∧ s.cursor < s.source.stream.length) ∧
    (let s := block .expectOpcode [0x00] [] .endOfStream
     s.run = .running ∧ s.source.stream.length ≤ s.cursor) := by decide
theorem witness_step_emits :
    let s := block .expectOpcode [] [0x00] .endOfStream
    step s = .next (s.afterDiag .unsupportedOpcode) ∧
      (s.afterDiag .unsupportedOpcode).trace = s.trace ++ [.diag .unsupportedOpcode s.cursor] := ⟨rfl, rfl⟩
theorem witness_step_is_silent :
    let s := block .expectOpcode [] [0xB8] .endOfStream
    step s = .next (s.afterLatch (.expectImmediateLow 1 0)) := by rfl
theorem witness_step_fails :
    let s := block (.expectModRM 0 0) [0x88] [] .endOfStream
    step s = .next (s.afterFatal .truncatedInstruction) ∧ ErrorKind.isFatal .truncatedInstruction = true ∧
      ErrorKind.isFatal .unsupportedOpcode = false := ⟨rfl, rfl, rfl⟩

theorem witness_step_mode :
    let s := block (.expectModRM 1 1) [0x8B] [0x00] .endOfStream
    step s = .next (s.afterDiag .unsupportedAddressingMode) := by rfl
theorem witness_step_read_error :
    let s := block (.expectModRM 1 1) [0x8B] [] .readError
    step s = .next (s.afterFatal .sourceReadError) := by rfl
theorem witness_name_index : (15 : Fin 16).val = 8 * (1#1).toNat + (7#3).toNat := by decide

theorem witness_whole_instruction :
    let s := block .expectOpcode [0x90] [0xB8, 0x05, 0x00, 0x90] .endOfStream
    s.run = .running ∧ s.fsm = .expectOpcode ∧
      s.source.stream.drop s.cursor = encode (.movR16Imm16 0 0x05 0x00) ++ [0x90] := by decide

/-- P1's first instruction, and an end of each kind. -/
theorem witness_run_clean :
    Source.ending ⟨[0x89, 0xD8], .endOfStream⟩ = .endOfStream ∧ (listing [0x89, 0xD8]).2 = [] ∧
      (listing [0x89, 0xD8]).1 = [.line "mov ax, bx".toList] := by decide
theorem witness_run_truncated :
    Source.ending ⟨[0xB8, 0x05], .endOfStream⟩ = .endOfStream ∧ (listing [0xB8, 0x05]).2 = [0xB8, 0x05] := by decide
theorem witness_run_read_error : Source.ending ⟨[0x88, 0x00], .readError⟩ = .readError ∧
    (listing [0x88, 0x00]).1 = [.diag .unsupportedAddressingMode 1] := by decide

/-- Scenario A (95_test_vectors.md section 1.1): what `Run` leaves. -/
def scenarioA : State :=
  { source := { stream := [0x89, 0xD8], ending := .endOfStream }
    fsm := .expectOpcode
    cursor := 2
    run := .endedClean
    trace := [.line "bits 16".toList, .line [], .line "mov ax, bx".toList, .line []] }

theorem test_scenarioA : runSource scenarioA.source = .next scenarioA := by rfl
theorem witness_run_of_steps : runSteps 3 (State.resetWith scenarioA.source) = .next scenarioA := by rfl
theorem witness_clean_run : runSource scenarioA.source = .next scenarioA ∧ scenarioA.run = .endedClean := ⟨rfl, rfl⟩
theorem witness_silent_run :
    scenarioA.faithful = true ∧ scenarioA.source.ending = .endOfStream ∧ instrSupported (.movRm16R16 3 0) = true ∧
      scenarioA.source.stream = [Instr.movRm16R16 3 0].flatMap encode := by decide

/-- A running state of a run, two bytes into a three-byte instruction. -/
theorem witness_running_state :
    runSteps 2 (State.resetWith ⟨[0xB8, 0x05, 0x00], .endOfStream⟩) =
        .next (block (.expectImmediateHigh 0 0x05) [0xB8, 0x05] [0x00] .endOfStream) ∧
      (block (.expectImmediateHigh 0 0x05) [0xB8, 0x05] [0x00] .endOfStream).run = .running := ⟨rfl, rfl⟩

/-- A lawful state inside an instruction, and a step from it. -/
theorem witness_account :
    (block (.expectModRM 0 1) [0x89] [0xD8] .endOfStream).Accounted ∧
      ∃ t, step (block (.expectModRM 0 1) [0x89] [0xD8] .endOfStream) = .next t :=
  ⟨⟨by decide, by decide, by decide, trivial⟩, _, rfl⟩

/-- Two pasts, one future: different bytes, offsets and traces before the same framer state and the same input. -/
theorem witness_two_pasts :
    let s₁ := block (.expectModRM 0 1) [0x89] [0xD8] .endOfStream
    let s₂ := (block (.expectModRM 0 1) [0x00, 0x00, 0x89] [0xD8] .endOfStream).emit (.diag .unsupportedOpcode 0)
    s₁.fsm = s₂.fsm ∧ s₁.run = s₂.run ∧ s₁.source.ending = s₂.source.ending ∧
      s₁.source.stream.drop s₁.cursor = s₂.source.stream.drop s₂.cursor ∧ s₁ ≠ s₂ := by decide
theorem witness_two_pasts_run :
    runSteps 1 (block (.expectModRM 0 1) [0x89] [0xD8] .endOfStream) =
      .next ((block (.expectModRM 0 1) [0x89] [0xD8] .endOfStream).afterLine "mov ax, bx".toList) := by rfl

/-- A running block and an event of each kind: a byte that emits nothing, one that emits a diagnostic, an end that emits a line, and a
read error. -/
theorem witness_signal_byte :
    let p : InputSignals := { rst := false, inValid := true, inKind := 0, inByte := 0xB8 }
    let s := block .expectOpcode [] [] .endOfStream
    p.rst = false ∧ p.inValid = true ∧ s.run = .running ∧ p.inKind = 0 ∧
      eventStep (.byte p.inByte) s = .next (s.afterLatch (.expectImmediateLow 1 0)) := ⟨rfl, rfl, rfl, rfl, rfl⟩
theorem witness_signal_byte_diagnostic :
    let p : InputSignals := { rst := false, inValid := true, inKind := 0, inByte := 0xFF }
    let s := block .expectOpcode [] [] .endOfStream
    p.rst = false ∧ p.inValid = true ∧ s.run = .running ∧ p.inKind = 0 ∧
      eventStep (.byte p.inByte) s = .next (s.afterDiag .unsupportedOpcode) := ⟨rfl, rfl, rfl, rfl, rfl⟩
theorem witness_signal_end_of_stream :
    let p : InputSignals := { rst := false, inValid := true, inKind := 1, inByte := 0 }
    let s := block .expectOpcode [] [] .endOfStream
    p.rst = false ∧ p.inValid = true ∧ s.run = .running ∧ p.inKind = 1 ∧
      eventStep .endOfStream s = .next s.endClean ∧ s.endClean.trace = s.trace ++ [.line []] := ⟨rfl, rfl, rfl, rfl, rfl, rfl⟩
theorem witness_signal_read_error :
    let p : InputSignals := { rst := false, inValid := true, inKind := 2, inByte := 0 }
    let s := block .expectOpcode [] [] .endOfStream
    p.rst = false ∧ p.inValid = true ∧ s.run = .running ∧ p.inKind = 2 ∧
      eventStep .readError s = .next (s.afterFatal .sourceReadError) := ⟨rfl, rfl, rfl, rfl, rfl⟩
theorem witness_signal_reset :
    let p : InputSignals := { rst := true, inValid := false, inKind := 3, inByte := 0 }
    p.rst = true := by rfl
theorem witness_signal_idle :
    let p : InputSignals := { rst := false, inValid := false, inKind := 3, inByte := 0 }
    p.rst = false ∧ p.inValid = false := ⟨rfl, rfl⟩
theorem witness_signal_not_ready :
    let p : InputSignals := { rst := false, inValid := true, inKind := 0, inByte := 0 }
    p.rst = false ∧ ((block .expectOpcode [] [] .endOfStream).setRun .endedClean).run ≠ .running := by decide

end Sys2Proof.Tests
end

section
/-! The read primitive (R27): which event is next while a byte is left and at the end of the stream, and what a byte's step does to
the cursor. -/

namespace Sys2Proof.Machine

theorem State.byteAt_of_lt {s : State} {k : Nat} (h : k < s.source.stream.length) :
    s.byteAt k = some (s.source.stream[k]'h) := List.getElem?_eq_getElem h

/-- R27 at `cursor` = N: the event is the ending. -/
theorem State.nextEvent_at_end {s : State} (h : s.cursor = s.source.stream.length) :
    s.nextEvent = s.source.ending.event :=
  State.nextEvent_ending (State.byteAt_eq_none_iff.mpr h.ge)

/-- The machine's step is the event step of the event it reads. -/
theorem step_of_nextEvent {s : State} {e : InputEvent} (h : s.nextEvent = e) : step s = eventStep e s :=
  congrArg (eventStep · s) h

theorem eventStep_byte {s : State} (hr : s.run = .running) (b : Byte) : eventStep (.byte b) s = byteStep b s := by
  simp [eventStep, hr]

/-- A byte is always answered by a next state, and consumed (R14), whether or not it completes an instruction. -/
theorem byteStep_advances_cursor (b : Byte) (s : State) : ∃ t, byteStep b s = .next t ∧ t.cursor = s.cursor + 1 := by
  rcases byteStep_cases b s with ⟨i, hrun⟩ | ⟨f, hlatch⟩
  · obtain ⟨e, hexec⟩ := exec_shape i s
    exact ⟨_, hrun.trans hexec, rfl⟩
  · exact ⟨_, hlatch, rfl⟩

/-- Settles O2: with a byte left the step is the byte's, which advances the cursor; at the end of the stream it is the ending's. -/
theorem readGivesTheByteAtTheCursorOrTheEnding : Obligations.ReadGivesTheByteAtTheCursorOrTheEnding := by
  intro s hr
  refine ⟨fun hlt => ?byteLeft, fun hend he => ?endOfStream, fun hend he => ?readError⟩
  case byteLeft =>
    have hread := State.nextEvent_byte (State.byteAt_of_lt hlt)
    obtain ⟨t, ht, hcursor⟩ := byteStep_advances_cursor (s.source.stream[s.cursor]'hlt) s
    have hevent := (eventStep_byte hr _).trans ht
    exact ⟨hread, t, hevent, (step_of_nextEvent hread).trans hevent, hcursor⟩
  case endOfStream =>
    have hread : s.nextEvent = .endOfStream := by rw [State.nextEvent_at_end hend, he]; rfl
    exact ⟨hread, step_of_nextEvent hread⟩
  case readError =>
    have hread : s.nextEvent = .readError := by rw [State.nextEvent_at_end hend, he]; rfl
    exact ⟨hread, step_of_nextEvent hread⟩

end Sys2Proof.Machine
end

section
/-! The decoder's answers, said once (R40, R48), the length that the first byte announces, and the register names (R47, R70). -/

namespace Sys2Proof

/-- What an accepted list of bytes is: the form of its first byte, the further bytes that form takes, and the instruction. -/
theorem decode_cases {b : Byte} {bytes rest : List Byte} {i : Instr} (h : decode (b :: bytes) = .instr i rest) :
    (classify b = .unsupported ∧ bytes = rest ∧ i = unsupportedInstr b) ∨
    (∃ d w m, classify b = .regMemMove d w ∧ bytes = m :: rest ∧ i = regMemInstr d w m) ∨
    (∃ reg lo, classify b = .immediateToRegMove 0 reg ∧ bytes = lo :: rest ∧ i = .movR8Imm8 reg lo) ∨
    (∃ reg lo hi, classify b = .immediateToRegMove 1 reg ∧ bytes = lo :: hi :: rest ∧ i = .movR16Imm16 reg lo hi) := by
  cases hform : classify b with
  | unsupported =>
    simp only [decode, hform, Decoded.instr.injEq] at h
    obtain ⟨rfl, rfl⟩ := h
    exact .inl ⟨rfl, rfl, rfl⟩
  | regMemMove d w =>
    cases bytes with
    | nil => simp [decode, hform] at h
    | cons m bytes =>
      simp only [decode, hform, Decoded.instr.injEq] at h
      obtain ⟨rfl, rfl⟩ := h
      exact .inr (.inl ⟨d, w, m, rfl, rfl, rfl⟩)
  | immediateToRegMove w reg =>
    obtain rfl | rfl := BitVec.eq_zero_or_eq_one w
    · cases bytes with
      | nil => simp [decode, hform] at h
      | cons lo bytes =>
        simp only [decode, hform, BitVec.ofNat_eq_ofNat, ↓reduceIte, Decoded.instr.injEq] at h
        obtain ⟨rfl, rfl⟩ := h
        exact .inr (.inr (.inl ⟨reg, lo, rfl, rfl, rfl⟩))
    · match bytes with
      | [] => simp [decode, hform] at h
      | [lo] => simp [decode, hform] at h
      | lo :: hi :: bytes =>
        simp only [decode, hform, if_neg (by decide : (1#1 : Bit) ≠ 0), Decoded.instr.injEq] at h
        obtain ⟨rfl, rfl⟩ := h
        exact .inr (.inr (.inr ⟨reg, lo, hi, rfl, rfl, rfl⟩))

/-- R48 with R66: the length is the first byte and the bytes that its form still needs. -/
theorem length_of_decode {b : Byte} {bytes rest : List Byte} {i : Instr} (h : decode (b :: bytes) = .instr i rest) :
    i.length = 1 + (classify b).furtherBytes := by
  rcases decode_cases h with
    ⟨hform, -, rfl⟩ | ⟨d, w, m, hform, -, rfl⟩ | ⟨reg, lo, hform, -, rfl⟩ | ⟨reg, lo, hi, hform, -, rfl⟩
  · rw [hform, unsupportedInstr_length]; rfl
  · rw [hform, regMemInstr_length]; rfl
  · rw [hform]; rfl
  · rw [hform]; rfl

/-- A decoded instruction uses as many bytes as its length. -/
theorem length_add_rest_of_decode {b : Byte} {bytes rest : List Byte} {i : Instr} (h : decode (b :: bytes) = .instr i rest) :
    i.length + rest.length = bytes.length + 1 := by
  rcases decode_cases h with
    ⟨-, rfl, rfl⟩ | ⟨d, w, m, -, rfl, rfl⟩ | ⟨reg, lo, -, rfl, rfl⟩ | ⟨reg, lo, hi, -, rfl, rfl⟩
  · rw [unsupportedInstr_length, Nat.add_comm]
  · rw [regMemInstr_length, List.length_cons]; omega
  · rw [Instr.length, List.length_cons]; omega
  · rw [Instr.length, List.length_cons, List.length_cons]; omega

/-- The further bytes of a first byte, from its value: R41 and R42 with the count of R66. -/
theorem furtherBytes_classify : ∀ b : Byte, (classify b).furtherBytes =
    if b.toNat / 16 = 0b1011 then 1 + b.toNat / 8 % 2 else if b.toNat / 4 = 0b100010 then 1 else 0 := by
  decide

namespace Machine

/-- Settles O25: the length is one more than the further bytes of the first byte's form, whose ranges R41 and R42 give. -/
theorem lengthComesFromTheFirstByte : Obligations.LengthComesFromTheFirstByte := by
  intro b bytes rest i h
  have hlen := length_of_decode h
  rw [furtherBytes_classify] at hlen
  refine ⟨length_add_rest_of_decode h, fun hlo hhi => ?regMem, fun hlo hhi => ?imm8, fun hlo hhi => ?imm16,
    fun hregMem himm => ?unsupported⟩
  case regMem => rwa [if_neg (by omega), if_pos (by omega)] at hlen
  case imm8 => rw [if_pos (by omega)] at hlen; omega
  case imm16 => rw [if_pos (by omega)] at hlen; omega
  case unsupported => rwa [if_neg himm, if_neg hregMem] at hlen

/-- Settles O6: the names are evaluated, and an index of the value 8 * w + sel is the index that `RegName` reads. -/
theorem registerNamesAreTheSixteen : Obligations.RegisterNamesAreTheSixteen := by
  refine ⟨by decide, by decide, ?_⟩
  rintro w sel ⟨_, hlt⟩ rfl
  rfl

end Machine

end Sys2Proof
end

section
/-! The classifier, said once in the arithmetic of the byte's value (R61 to R63): a slice `b[hi:lo]` is the quotient by 2 ^ lo,
cut to the slice's width (R9). -/

namespace Sys2Proof

/-- R9: the slice of `n` bits from bit `lo` up. -/
theorem extractLsb'_eq_ofNat_div (b : Byte) (lo n : Nat) : b.extractLsb' lo n = BitVec.ofNat n (b.toNat / 2 ^ lo) :=
  congrArg (BitVec.ofNat n) (Nat.shiftRight_eq_div_pow _ _)

/-- A slice that reaches the byte's top bit is the whole quotient. -/
theorem extractLsb'_top_eq_iff (b : Byte) {lo n : Nat} (htop : lo + n = 8) (v : BitVec n) :
    b.extractLsb' lo n = v ↔ b.toNat / 2 ^ lo = v.toNat := by
  have hlt : b.toNat / 2 ^ lo < 2 ^ n := Nat.div_lt_of_lt_mul (by rw [← pow_add, htop]; exact b.isLt)
  rw [extractLsb'_eq_ofNat_div, BitVec.toNat_eq, BitVec.toNat_ofNat, Nat.mod_eq_of_lt hlt]

/-- The classifier's two tests and its fields, as quotients of the byte's value. -/
theorem classify_eq (b : Byte) : classify b =
    if b.toNat / 16 = 0b1011 then .immediateToRegMove (BitVec.ofNat 1 (b.toNat / 8)) (BitVec.ofNat 3 b.toNat)
    else if b.toNat / 4 = 0b100010 then .regMemMove (BitVec.ofNat 1 (b.toNat / 2)) (BitVec.ofNat 1 b.toNat)
    else .unsupported := by
  have himm : b.extractLsb' 4 4 = 0b1011#4 ↔ b.toNat / 16 = 0b1011 := extractLsb'_top_eq_iff b rfl _
  have hregMem : b.extractLsb' 2 6 = 0b100010#6 ↔ b.toNat / 4 = 0b100010 := extractLsb'_top_eq_iff b rfl _
  simp only [classify, himm, hregMem]
  simp only [extractLsb'_eq_ofNat_div, pow_zero, Nat.div_one, Nat.reducePow]

namespace Machine

/-- Settles O3: each arm is a branch of the classifier; the first pattern excludes the second (R45), so their order does not
matter. -/
theorem classifierFollowsTheTwoPatterns : Obligations.ClassifierFollowsTheTwoPatterns := by
  intro b
  rw [furtherBytes_classify, classify_eq]
  refine ⟨fun himm => ?immediate, fun hregMem => ?regMem, fun himm hregMem => ?unsupported⟩
  case immediate => exact ⟨if_pos himm, if_pos himm⟩
  case regMem =>
    have himm : b.toNat / 16 ≠ 0b1011 := by omega
    simp only [if_neg himm, if_pos hregMem, and_self]
  case unsupported => simp only [if_neg himm, if_neg hregMem, and_self]

end Machine

end Sys2Proof
end

section
/-! The operand resolver, said once in the arithmetic of the second byte's value (R67 to R69), and the order of a register pair. -/

namespace Sys2Proof

/-- R67: the three fields as quotients of the byte's value. -/
theorem extractModRM_eq (m : Byte) : extractModRM m =
    { mod := BitVec.ofNat 2 (m.toNat / 64), reg := BitVec.ofNat 3 (m.toNat / 8), rm := BitVec.ofNat 3 m.toNat } := by
  simp only [extractModRM, extractLsb'_eq_ofNat_div, pow_zero, Nat.div_one, Nat.reducePow]

/-- The MOD field reaches the byte's top bit, so its test is one on the whole quotient. -/
theorem extractModRM_mod_eq_three_iff (m : Byte) : (extractModRM m).mod = 3 ↔ m.toNat / 64 = 3 :=
  extractLsb'_top_eq_iff m rfl 3

/-- R50: two registers of one width are a well-formed pair. -/
theorem OperandPair.wellFormed_of_regs (w : Bit) (dst src : Sel) :
    OperandPair.wellFormed { dst := .reg w dst, src := .reg w src } = true := by
  simp [OperandPair.wellFormed, Operand.isReg, Operand.width, Operand.inRange]

namespace Machine

/-- R69, D = 1: REG is the destination. -/
theorem orderByDirection_one (w : Bit) (reg rm : Sel) :
    orderByDirection 1 w reg rm = { dst := .reg w reg, src := .reg w rm } := rfl

/-- R69, D = 0: R/M is the destination. -/
theorem orderByDirection_zero (w : Bit) (reg rm : Sel) :
    orderByDirection 0 w reg rm = { dst := .reg w rm, src := .reg w reg } := rfl

/-- R69 with R50: a register pair is well formed in either order. -/
theorem orderByDirection_wellFormed (d w : Bit) (reg rm : Sel) : (orderByDirection d w reg rm).wellFormed = true := by
  obtain rfl | rfl := BitVec.eq_zero_or_eq_one d
  · exact OperandPair.wellFormed_of_regs w rm reg
  · exact OperandPair.wellFormed_of_regs w reg rm

/-- R68: with MOD = 3 the fields name a register pair. -/
theorem resolveOperands_of_mod_three (d w : Bit) {m : Byte} (hmod : m.toNat / 64 = 3) :
    resolveOperands d w m =
      .pair (orderByDirection d w (BitVec.ofNat 3 (m.toNat / 8)) (BitVec.ofNat 3 m.toNat)) := by
  rw [resolveOperands, if_pos ((extractModRM_mod_eq_three_iff m).mpr hmod), extractModRM_eq]

/-- R68: with any other MOD there is no pair. -/
theorem resolveOperands_of_mod_ne_three (d w : Bit) {m : Byte} (hmod : m.toNat / 64 ≠ 3) :
    resolveOperands d w m = .unsupportedMode := by
  rw [resolveOperands, if_neg (mt (extractModRM_mod_eq_three_iff m).mp hmod)]

/-- A pair that the resolver answers is a register pair in one of the two orders, so it is well formed (R50). -/
theorem wellFormed_of_resolveOperands {d w : Bit} {m : Byte} {p : OperandPair} (h : resolveOperands d w m = .pair p) :
    p.wellFormed = true := by
  by_cases hmod : m.toNat / 64 = 3
  · rw [resolveOperands_of_mod_three d w hmod, Resolution.pair.injEq] at h
    subst h
    exact orderByDirection_wellFormed d w _ _
  · rw [resolveOperands_of_mod_ne_three d w hmod] at h
    contradiction

/-- Settles O9: the test on MOD selects the arm, D the order within the arm of MOD = 3. -/
theorem operandPairFollowsTheDirectionBit : Obligations.OperandPairFollowsTheDirectionBit := by
  intro d w m
  refine ⟨resolveOperands_of_mod_ne_three d w, fun hmod hd => ?regIsDst, fun hmod hd => ?rmIsDst,
    fun p => wellFormed_of_resolveOperands⟩
  case regIsDst => rw [resolveOperands_of_mod_three d w hmod, hd, orderByDirection_one]
  case rmIsDst => rw [resolveOperands_of_mod_three d w hmod, hd, orderByDirection_zero]

end Machine

end Sys2Proof
end

section
/-! The framer's transitions (R85 to R89): what a byte does in each framer state, and the clean end, as whole states. -/

namespace Sys2Proof.Machine

theorem byteStep_expectOpcode {s : State} (hf : s.fsm = .expectOpcode) (b : Byte) : byteStep b s = opcodeByte b s := by
  simp [byteStep, hf]

theorem byteStep_expectImmediateLow {s : State} {w : Bit} {reg : Sel} (hf : s.fsm = .expectImmediateLow w reg) (v : Byte) :
    byteStep v s = immediateLowByte w reg v s := by
  simp [byteStep, hf]

theorem byteStep_expectImmediateHigh {s : State} {reg : Sel} {lo : Byte} (hf : s.fsm = .expectImmediateHigh reg lo)
    (v : Byte) : byteStep v s = exec (.movR16Imm16 reg lo v) s := by
  simp [byteStep, hf]

theorem eventStep_endOfStream {s : State} (hr : s.run = .running) : eventStep .endOfStream s = endOfStreamStep s := by
  simp [eventStep, hr]

theorem endOfStreamStep_expectOpcode {s : State} (hf : s.fsm = .expectOpcode) : endOfStreamStep s = .next s.endClean := by
  simp [endOfStreamStep, hf]

/-- R117: whichever of its six rows a byte is given, it is rejected in the same way. -/
theorem exec_unsupportedInstr (b : Byte) (s : State) : exec (unsupportedInstr b) s = rejectOpcode s := by
  unfold unsupportedInstr
  repeat' split
  all_goals rfl

/-- R128: an unsupported opcode is reported at the cursor and its one byte consumed. -/
theorem rejectOpcode_eq (s : State) : rejectOpcode s = .next (s.afterDiag .unsupportedOpcode) :=
  congrArg Host.Outcome.next (State.completeError_recoverable rfl s)

theorem exec_movR8Imm8 (reg : Sel) (lo : Byte) (s : State) :
    exec (.movR8Imm8 reg lo) s = .next (s.afterLine (renderMov { dst := .reg 0 reg, src := assembleImm8 lo })) := rfl

theorem exec_movR16Imm16 (reg : Sel) (lo hi : Byte) (s : State) :
    exec (.movR16Imm16 reg lo hi) s =
      .next (s.afterLine (renderMov { dst := .reg 1 reg, src := assembleImm16 lo hi })) := rfl

theorem opcodeByte_regMemMove {b : Byte} {d w : Bit} (hform : classify b = .regMemMove d w) (s : State) :
    opcodeByte b s = .next (s.afterLatch (.expectModRM d w)) := by
  simp only [opcodeByte, hform, State.latch_eq, State.afterLatch]

theorem opcodeByte_immediateToRegMove {b : Byte} {w : Bit} {reg : Sel} (hform : classify b = .immediateToRegMove w reg)
    (s : State) : opcodeByte b s = .next (s.afterLatch (.expectImmediateLow w reg)) := by
  simp only [opcodeByte, hform, State.latch_eq, State.afterLatch]

theorem opcodeByte_unsupported {b : Byte} (hform : classify b = .unsupported) (s : State) :
    opcodeByte b s = .next (s.afterDiag .unsupportedOpcode) := by
  simp only [opcodeByte, hform, exec_unsupportedInstr, rejectOpcode_eq]

/-- Settles O29: the first byte's form selects the arm. -/
theorem firstByteTransition : Obligations.FirstByteTransition := by
  intro s b hr hf hb
  have hstep : step s = opcodeByte b s := (step_byte hr hb).trans (byteStep_expectOpcode hf b)
  refine ⟨fun d w hform => ?regMem, fun w reg hform => ?immediate, fun hform => ?unsupported⟩
  case regMem => rw [hstep, opcodeByte_regMemMove hform]
  case immediate => rw [hstep, opcodeByte_immediateToRegMove hform]
  case unsupported => rw [hstep, opcodeByte_unsupported hform]

/-- Settles O31: W says whether the byte is the whole immediate or its low half. -/
theorem immediateLowTransition : Obligations.ImmediateLowTransition := by
  intro s w reg v hr hf hb
  have hstep : step s = immediateLowByte w reg v s := (step_byte hr hb).trans (byteStep_expectImmediateLow hf v)
  refine ⟨fun hw => ?narrow, fun hw => ?wide⟩
  case narrow => rw [hstep, immediateLowByte, if_pos hw, exec_movR8Imm8]
  case wide =>
    have hw0 : w ≠ 0 := by rw [hw]; decide
    rw [hstep, immediateLowByte, if_neg hw0, State.latch_eq, State.afterLatch]

/-- Settles O32: the high byte runs the 16-bit immediate move. -/
theorem immediateHighTransition : Obligations.ImmediateHighTransition := by
  intro s reg lo v hr hf hb
  rw [step_byte hr hb, byteStep_expectImmediateHigh hf, exec_movR16Imm16]

/-- Settles O33: at the end of the stream the event is the ending, which `ExpectOpcode` answers with the clean end. -/
theorem cleanEndTransition : Obligations.CleanEndTransition := by
  intro s hr hf hend he
  have hread : s.nextEvent = .endOfStream := by rw [State.nextEvent_at_end hend, he]; rfl
  rw [step_of_nextEvent hread, eventStep_endOfStream hr, endOfStreamStep_expectOpcode hf, State.endClean_eq,
    Config.blankText]

end Sys2Proof.Machine
end

section
/-! The line emitter (R99, R100): the text of a move, with its separators as characters, and of each kind of operand. -/

namespace Sys2Proof.Machine

/-- R100: a register renders as its name. -/
@[simp] theorem renderOperand_reg (w : Bit) (sel : Sel) : renderOperand (.reg w sel) = regName w sel := rfl

/-- R100: an immediate renders as its decimal numeral, whatever its width. -/
@[simp] theorem renderOperand_imm (w : Bit) (v : BitVec 16) : renderOperand (.imm w v) = dec v.toNat := rfl

/-- R99 over the two operands. -/
theorem renderMov_eq (dst src : Operand) : renderMov { dst, src } =
    ['m', 'o', 'v', ' '] ++ renderOperand dst ++ [',', ' '] ++ renderOperand src := by
  have hmnemonic : "mov".toList ++ " ".toList = ['m', 'o', 'v', ' '] := rfl
  have hcomma : ",".toList ++ " ".toList = [',', ' '] := rfl
  rw [renderMov, hmnemonic, List.append_assoc (_ ++ _) ",".toList, hcomma]

/-- Settles O12: every line is `renderMov_eq` at its two operands, which D orders in a register move. -/
theorem linesHaveTheFormOfTheRules : Obligations.LinesHaveTheFormOfTheRules := by
  refine ⟨fun p => renderMov_eq p.dst p.src, renderOperand_reg, renderOperand_imm, fun w reg rm => ⟨?regFirst, ?rmFirst⟩,
    fun w reg v => ?immediate⟩
  case regFirst => rw [orderByDirection_one, renderMov_eq, renderOperand_reg, renderOperand_reg]
  case rmFirst => rw [orderByDirection_zero, renderMov_eq, renderOperand_reg, renderOperand_reg]
  case immediate => rw [renderMov_eq, renderOperand_reg, renderOperand_imm]

end Sys2Proof.Machine
end

section
/-! The three rows with a memory operand (R118): the second bytes that select each, and their common effect. -/

namespace Sys2Proof

/-- R57: the byte's value is its three fields, each at its place. -/
theorem toNat_modRMByte (mod : BitVec 2) (reg rm : Sel) :
    (modRMByte mod reg rm).toNat = 64 * mod.toNat + 8 * reg.toNat + rm.toNat := by
  revert mod reg rm; decide

/-- R43: a byte with a given MOD field is built from it and two selectors. -/
theorem exists_eq_modRMByte {m : Byte} {mod : BitVec 2} (hmod : m.toNat / 64 = mod.toNat) :
    ∃ reg rm, m = modRMByte mod reg rm := by
  have hfield : (extractModRM m).mod = mod := (extractLsb'_top_eq_iff m rfl mod).mpr hmod
  exact ⟨_, _, hfield ▸ (modRMByte_extractModRM m).symm⟩

theorem classify_of_regMem {b : Byte} (hlo : 0x88 ≤ b.toNat) (hhi : b.toNat ≤ 0x8B) :
    classify b = .regMemMove (BitVec.ofNat 1 (b.toNat / 2)) (BitVec.ofNat 1 b.toNat) := by
  rw [classify_eq, if_neg (by omega), if_pos (by omega)]

theorem decode_of_classify_regMemMove {b : Byte} {d w : Bit} (hform : classify b = .regMemMove d w) (m : Byte)
    (rest : List Byte) : decode (b :: m :: rest) = .instr (regMemInstr d w m) rest := by
  simp only [decode, hform]

namespace Machine

theorem byteStep_expectModRM {s : State} {d w : Bit} (hf : s.fsm = .expectModRM d w) (m : Byte) :
    byteStep m s = exec (regMemInstr d w m) s := by
  simp [byteStep, hf]

/-- R128: an unsupported addressing mode is reported at the cursor and no byte after the second one consumed. -/
theorem rejectMode_eq (s : State) : rejectMode s = .next (s.afterDiag .unsupportedAddressingMode) :=
  congrArg Host.Outcome.next (State.completeError_recoverable rfl s)

/-- The row `row` is the one that MOD = `mod` selects, and it is rejected whatever its fields (R118). -/
structure IsMemoryRow (mod : BitVec 2) (row : Bit → Bit → Sel → Sel → Instr) : Prop where
  regMemInstr_eq : ∀ d w reg rm, regMemInstr d w (modRMByte mod reg rm) = row d w reg rm
  exec_eq : ∀ d w reg rm s, exec (row d w reg rm) s = rejectMode s

theorem isMemoryRow_movMemMod0 : IsMemoryRow 0 .movMemMod0 where
  regMemInstr_eq d w reg rm := by rw [regMemInstr, extractModRM_modRMByte, if_pos rfl]
  exec_eq _ _ _ _ _ := rfl

theorem isMemoryRow_movMemMod1 : IsMemoryRow 1 .movMemMod1 where
  regMemInstr_eq d w reg rm := by
    rw [regMemInstr, extractModRM_modRMByte, if_neg (by decide : (1 : BitVec 2) ≠ 0), if_pos rfl]
  exec_eq _ _ _ _ _ := rfl

theorem isMemoryRow_movMemMod2 : IsMemoryRow 2 .movMemMod2 where
  regMemInstr_eq d w reg rm := by
    rw [regMemInstr, extractModRM_modRMByte, if_neg (by decide : (2 : BitVec 2) ≠ 0),
      if_neg (by decide : (2 : BitVec 2) ≠ 1), if_pos rfl]
  exec_eq _ _ _ _ _ := rfl

/-- R42 with R43: the first byte's family and the second byte's MOD field decode to the row. -/
theorem IsMemoryRow.decode_eq {mod : BitVec 2} {row : Bit → Bit → Sel → Sel → Instr} (hrow : IsMemoryRow mod row)
    {b m : Byte} {d w : Bit} (hform : classify b = .regMemMove d w) (hmod : m.toNat / 64 = mod.toNat) :
    ∃ d w reg rm, decode [b, m] = .instr (row d w reg rm) [] := by
  obtain ⟨reg, rm, rfl⟩ := exists_eq_modRMByte hmod
  exact ⟨d, w, reg, rm, by rw [decode_of_classify_regMemMove hform, hrow.regMemInstr_eq]⟩

/-- R118, step 2: the step of the second byte runs the row, and its report is the whole effect. -/
theorem IsMemoryRow.step_eq {mod : BitVec 2} {row : Bit → Bit → Sel → Sel → Instr} (hrow : IsMemoryRow mod row)
    {d w : Bit} {reg rm : Sel} {m : Byte} {s : State} (hr : s.run = .running) (hf : s.fsm = .expectModRM d w)
    (hb : s.byteAt s.cursor = some m) (hm : m.toNat = 64 * mod.toNat + 8 * reg.toNat + rm.toNat) :
    step s = exec (row d w reg rm) s ∧
      exec (row d w reg rm) s = .next (s.afterDiag .unsupportedAddressingMode) := by
  have hbyte : m = modRMByte mod reg rm := BitVec.eq_of_toNat_eq (hm.trans (toNat_modRMByte mod reg rm).symm)
  refine ⟨?_, (hrow.exec_eq d w reg rm s).trans (rejectMode_eq s)⟩
  rw [step_byte hr hb, byteStep_expectModRM hf, hbyte, hrow.regMemInstr_eq]

/-- Settles O16: the first byte sets the latches (R85); the three MOD values select three rows with one effect. -/
theorem memoryOperandsReportTheAddressingMode : Obligations.MemoryOperandsReportTheAddressingMode := by
  refine ⟨fun b m hlo hhi => ?decode, fun s b hr hf hb hlo hhi => ?firstByte, fun d w reg rm m s hr hf hb => ?secondByte⟩
  case decode =>
    have hform := classify_of_regMem hlo hhi
    exact ⟨isMemoryRow_movMemMod0.decode_eq hform, isMemoryRow_movMemMod1.decode_eq hform,
      isMemoryRow_movMemMod2.decode_eq hform⟩
  case firstByte => exact (firstByteTransition s b hr hf hb).1 _ _ (classify_of_regMem hlo hhi)
  case secondByte =>
    exact ⟨isMemoryRow_movMemMod0.step_eq hr hf hb, isMemoryRow_movMemMod1.step_eq hr hf hb,
      isMemoryRow_movMemMod2.step_eq hr hf hb⟩

end Machine

end Sys2Proof
end

section
/-! The six rows of unsupported first bytes (R46, R117): each holds the bytes of one aligned range, and all have one effect. -/

namespace Sys2Proof.Machine

/-- The single byte that is an unsupported row's encoding is unsupported and decodes to that row. -/
theorem unsupportedInstr_of_encode {i : Instr} {b : Byte} (hlen : i.length = 1) (henc : encode i = [b]) :
    classify b = .unsupported ∧ unsupportedInstr b = i := by
  obtain ⟨b', henc', hrow⟩ := classify_unsupported_rows i hlen
  obtain rfl : b' = b := List.singleton_inj.mp (henc'.symm.trans henc)
  exact hrow

/-- The row `row` holds the `2 ^ n` first bytes from `base` up, and leaves their low `n` bits open (R46). -/
structure IsUnsupportedRow {n : Nat} (base : Byte) (row : BitVec n → Instr) : Prop where
  width_le : n ≤ 8
  base_aligned : 2 ^ n ∣ base.toNat
  length_eq_one : ∀ x, (row x).length = 1
  encode_eq : ∀ x, encode (row x) = [base ||| x.setWidth 8]

theorem isUnsupportedRow_0xxxxxxx : IsUnsupportedRow 0x00 .unsupported0xxxxxxx :=
  ⟨by decide, by decide, fun _ => rfl, fun x => congrArg ([·]) (BitVec.zero_or (x := x.setWidth 8)).symm⟩

theorem isUnsupportedRow_10000xxx : IsUnsupportedRow 0x80 .unsupported10000xxx :=
  ⟨by decide, by decide, fun _ => rfl, fun _ => rfl⟩

theorem isUnsupportedRow_100011xx : IsUnsupportedRow 0x8C .unsupported100011xx :=
  ⟨by decide, by decide, fun _ => rfl, fun _ => rfl⟩

theorem isUnsupportedRow_1001xxxx : IsUnsupportedRow 0x90 .unsupported1001xxxx :=
  ⟨by decide, by decide, fun _ => rfl, fun _ => rfl⟩

theorem isUnsupportedRow_1010xxxx : IsUnsupportedRow 0xA0 .unsupported1010xxxx :=
  ⟨by decide, by decide, fun _ => rfl, fun _ => rfl⟩

theorem isUnsupportedRow_11xxxxxx : IsUnsupportedRow 0xC0 .unsupported11xxxxxx :=
  ⟨by decide, by decide, fun _ => rfl, fun _ => rfl⟩

namespace IsUnsupportedRow

variable {n : Nat} {base b : Byte} {row : BitVec n → Instr}

/-- The base is a multiple of `2 ^ n`, so joining the open bits to it adds them. -/
theorem encode_of_toNat (hrow : IsUnsupportedRow base row) {x : BitVec n} (hb : b.toNat = base.toNat + x.toNat) :
    encode (row x) = [b] := by
  obtain ⟨a, ha⟩ := hrow.base_aligned
  have hor : base ||| x.setWidth 8 = b := BitVec.eq_of_toNat_eq (by
    rw [BitVec.toNat_or, BitVec.toNat_setWidth_of_le hrow.width_le, hb, ha, Nat.two_pow_add_eq_or_of_lt x.isLt])
  rw [hrow.encode_eq, hor]

/-- The classifier and the table agree on the row of a byte. -/
theorem classify_and_row (hrow : IsUnsupportedRow base row) {x : BitVec n} (hb : b.toNat = base.toNat + x.toNat) :
    classify b = .unsupported ∧ unsupportedInstr b = row x :=
  unsupportedInstr_of_encode (hrow.length_eq_one x) (hrow.encode_of_toNat hb)

/-- A byte of the row's range decodes, alone, to the row. -/
theorem decode_eq (hrow : IsUnsupportedRow base row) (hlo : base.toNat ≤ b.toNat) (hhi : b.toNat < base.toNat + 2 ^ n) :
    ∃ x, decode [b] = .instr (row x) [] := by
  have hlt : b.toNat - base.toNat < 2 ^ n := by omega
  have hb : b.toNat = base.toNat + (BitVec.ofNatLT _ hlt).toNat := by rw [BitVec.toNat_ofNatLT]; omega
  obtain ⟨hform, hinstr⟩ := hrow.classify_and_row hb
  exact ⟨BitVec.ofNatLT _ hlt, by simp only [decode, hform, hinstr]⟩

/-- R117: the one step of the byte runs the row, and its report is the whole effect. -/
theorem step_eq (hrow : IsUnsupportedRow base row) {s : State} (hr : s.run = .running) (hf : s.fsm = .expectOpcode)
    (hb : s.byteAt s.cursor = some b) (x : BitVec n) (hx : b.toNat = base.toNat + x.toNat) :
    step s = exec (row x) s ∧ exec (row x) s = .next (s.afterDiag .unsupportedOpcode) := by
  obtain ⟨hform, hinstr⟩ := hrow.classify_and_row hx
  rw [← hinstr]
  refine ⟨?_, (exec_unsupportedInstr b s).trans (rejectOpcode_eq s)⟩
  rw [step_byte hr hb, byteStep_expectOpcode hf]
  simp only [opcodeByte, hform]

end IsUnsupportedRow

/-- Settles O17: each clause is the decoding or the step of one of the six rows. -/
theorem unsupportedFirstBytesAreReported : Obligations.UnsupportedFirstBytesAreReported := by
  refine ⟨fun b _ _ => ?decode, fun b s hr hf hb => ?step⟩
  case decode =>
    exact ⟨fun hhi => isUnsupportedRow_0xxxxxxx.decode_eq (Nat.zero_le _) (Nat.lt_succ_of_le hhi),
      fun hlo hhi => isUnsupportedRow_10000xxx.decode_eq hlo (Nat.lt_succ_of_le hhi),
      fun hlo hhi => isUnsupportedRow_100011xx.decode_eq hlo (Nat.lt_succ_of_le hhi),
      fun hlo hhi => isUnsupportedRow_1001xxxx.decode_eq hlo (Nat.lt_succ_of_le hhi),
      fun hlo hhi => isUnsupportedRow_1010xxxx.decode_eq hlo (Nat.lt_succ_of_le hhi),
      fun hlo => isUnsupportedRow_11xxxxxx.decode_eq hlo b.isLt⟩
  case step =>
    exact ⟨isUnsupportedRow_0xxxxxxx.step_eq hr hf hb, isUnsupportedRow_10000xxx.step_eq hr hf hb,
      isUnsupportedRow_100011xx.step_eq hr hf hb, isUnsupportedRow_1001xxxx.step_eq hr hf hb,
      isUnsupportedRow_1010xxxx.step_eq hr hf hb, isUnsupportedRow_11xxxxxx.step_eq hr hf hb⟩

end Sys2Proof.Machine
end

section
/-! The round trip between an instruction and its bytes (R57): the decoder on each family of first bytes, and the encoder on each
decoded row. -/

namespace Sys2Proof

theorem decode_of_classify_unsupported {b : Byte} (hform : classify b = .unsupported) (rest : List Byte) :
    decode (b :: rest) = .instr (unsupportedInstr b) rest := by
  simp only [decode, hform]

theorem decode_of_classify_immediate8 {b : Byte} {reg : Sel} (hform : classify b = .immediateToRegMove 0 reg) (lo : Byte)
    (rest : List Byte) : decode (b :: lo :: rest) = .instr (.movR8Imm8 reg lo) rest := by
  simp only [decode, hform, if_pos]

theorem decode_of_classify_immediate16 {b : Byte} {reg : Sel} (hform : classify b = .immediateToRegMove 1 reg)
    (lo hi : Byte) (rest : List Byte) : decode (b :: lo :: hi :: rest) = .instr (.movR16Imm16 reg lo hi) rest := by
  simp only [decode, hform, if_neg (by decide : (1 : Bit) ≠ 0)]

/-- The case split on D and W. -/
theorem bits_cases {P : Bit → Bit → Prop} (zeroZero : P 0 0) (zeroOne : P 0 1) (oneZero : P 1 0) (oneOne : P 1 1) (d w : Bit) :
    P d w := by
  obtain rfl | rfl := BitVec.eq_zero_or_eq_one d
  · obtain rfl | rfl := BitVec.eq_zero_or_eq_one w
    · exact zeroZero
    · exact zeroOne
  · obtain rfl | rfl := BitVec.eq_zero_or_eq_one w
    · exact oneZero
    · exact oneOne

/-- The four rows of MOD = 3, one for each first byte (R108 to R111). -/
def registerRow (d w : Bit) (reg rm : Sel) : Instr :=
  if d = 0 then
    if w = 0 then .movRm8R8 reg rm else .movRm16R16 reg rm
  else
    if w = 0 then .movR8Rm8 reg rm else .movR16Rm16 reg rm

theorem regMemInstr_modRMByte_three (d w : Bit) (reg rm : Sel) :
    regMemInstr d w (modRMByte 3 reg rm) = registerRow d w reg rm := by
  rw [regMemInstr, extractModRM_modRMByte, if_neg (by decide : (3 : BitVec 2) ≠ 0),
    if_neg (by decide : (3 : BitVec 2) ≠ 1), if_neg (by decide : (3 : BitVec 2) ≠ 2), registerRow]

theorem encode_registerRow (d w : Bit) (reg rm : Sel) :
    encode (registerRow d w reg rm) = [regMemByte d w, modRMByte 3 reg rm] := by
  cases d, w using bits_cases <;> rfl

/-- R57: the two bytes of a register or memory move are the first byte of its D and W and the second byte as it was read. -/
theorem encode_regMemInstr (d w : Bit) (m : Byte) : encode (regMemInstr d w m) = [regMemByte d w, m] := by
  obtain ⟨mod, reg, rm, rfl⟩ : ∃ mod reg rm, m = modRMByte mod reg rm := ⟨_, _, _, (modRMByte_extractModRM m).symm⟩
  have hmod : mod = 0 ∨ mod = 1 ∨ mod = 2 ∨ mod = 3 := by revert mod; decide
  rcases hmod with rfl | rfl | rfl | rfl
  · rw [Machine.isMemoryRow_movMemMod0.regMemInstr_eq, encode]
  · rw [Machine.isMemoryRow_movMemMod1.regMemInstr_eq, encode]
  · rw [Machine.isMemoryRow_movMemMod2.regMemInstr_eq, encode]
  · rw [regMemInstr_modRMByte_three, encode_registerRow]

/-- The instructions by the form of their first byte: what `decode_cases` is for bytes, for instructions. -/
theorem Instr.cases_by_form (i : Instr) :
    (∃ b, classify b = .unsupported ∧ i = unsupportedInstr b) ∨ (∃ d w m, i = regMemInstr d w m) ∨
      (∃ reg lo, i = .movR8Imm8 reg lo) ∨ ∃ reg lo hi, i = .movR16Imm16 reg lo hi := by
  by_cases hone : i.length = 1
  · obtain ⟨b, -, hform, hrow⟩ := classify_unsupported_rows i hone
    exact .inl ⟨b, hform, hrow.symm⟩
  · refine .inr ?_
    cases i with
    | movRm8R8 reg rm => exact .inl ⟨0, 0, _, (regMemInstr_modRMByte_three 0 0 reg rm).symm⟩
    | movRm16R16 reg rm => exact .inl ⟨0, 1, _, (regMemInstr_modRMByte_three 0 1 reg rm).symm⟩
    | movR8Rm8 reg rm => exact .inl ⟨1, 0, _, (regMemInstr_modRMByte_three 1 0 reg rm).symm⟩
    | movR16Rm16 reg rm => exact .inl ⟨1, 1, _, (regMemInstr_modRMByte_three 1 1 reg rm).symm⟩
    | movMemMod0 d w reg rm => exact .inl ⟨d, w, _, (Machine.isMemoryRow_movMemMod0.regMemInstr_eq d w reg rm).symm⟩
    | movMemMod1 d w reg rm => exact .inl ⟨d, w, _, (Machine.isMemoryRow_movMemMod1.regMemInstr_eq d w reg rm).symm⟩
    | movMemMod2 d w reg rm => exact .inl ⟨d, w, _, (Machine.isMemoryRow_movMemMod2.regMemInstr_eq d w reg rm).symm⟩
    | movR8Imm8 reg lo => exact .inr (.inl ⟨reg, lo, rfl⟩)
    | movR16Imm16 reg lo hi => exact .inr (.inr ⟨reg, lo, hi, rfl⟩)
    | _ => exact absurd rfl hone

theorem decode_encode (i : Instr) (rest : List Byte) : decode (encode i ++ rest) = .instr i rest := by
  rcases i.cases_by_form with ⟨b, hform, rfl⟩ | ⟨d, w, m, rfl⟩ | ⟨reg, lo, rfl⟩ | ⟨reg, lo, hi, rfl⟩
  · rw [encode_unsupportedInstr b hform]
    exact decode_of_classify_unsupported hform rest
  · rw [encode_regMemInstr]
    exact decode_of_classify_regMemMove (classify_regMemByte d w) m rest
  · exact decode_of_classify_immediate8 (classify_immediateByte 0 reg) lo rest
  · exact decode_of_classify_immediate16 (classify_immediateByte 1 reg) lo hi rest

theorem encode_append_of_decode {bytes rest : List Byte} {i : Instr} (h : decode bytes = .instr i rest) :
    encode i ++ rest = bytes := by
  cases bytes with
  | nil => cases h
  | cons b bytes =>
    rcases decode_cases h with
      ⟨hform, rfl, rfl⟩ | ⟨d, w, m, hform, rfl, rfl⟩ | ⟨reg, lo, hform, rfl, rfl⟩ | ⟨reg, lo, hi, hform, rfl, rfl⟩
    · rw [encode_unsupportedInstr b hform, List.singleton_append]
    · rw [encode_regMemInstr, regMemByte_of_classify b d w hform, List.cons_append, List.singleton_append]
    · rw [encode, immediateByte_of_classify b 0 reg hform, List.cons_append, List.singleton_append]
    · rw [encode, immediateByte_of_classify b 1 reg hform, List.cons_append, List.cons_append, List.singleton_append]

/-- Settles O22: each form decodes from its own first byte, whatever bytes follow the instruction's. -/
theorem decodeOfEncodeIsTheInstruction : Obligations.DecodeOfEncodeIsTheInstruction :=
  fun i rest _ => decode_encode i rest

/-- Settles O23: the first byte's form gives back its fields, and the further bytes are in the instruction. -/
theorem encodeOfDecodeIsTheBytes : Obligations.EncodeOfDecodeIsTheBytes :=
  fun _ _ _ h => encode_append_of_decode h

end Sys2Proof
end

section
/-! The opcode table's rows (30_encoding.md section 2): of the second byte a row tests the MOD field alone, so which rows apply is
a fact over the first bytes and the four values of MOD. -/

namespace Sys2Proof

/-- The mnemonics of the rows that apply to two first bytes. -/
def applyingMnemonics (b0 b1 : Byte) : List String :=
  (opcodeRows.filter (OpcodeRow.applies · b0 b1)).map OpcodeRow.mnemonic

/-- The second byte with the MOD field of `m` and nothing else. -/
def modOnly (m : Byte) : Byte := modRMByte (extractModRM m).mod 0 0

theorem and_modMask : ∀ m : Byte, m &&& 0xC0 = modOnly m &&& 0xC0 := by decide

theorem mask1_eq_of_mem_opcodeRows : ∀ r ∈ opcodeRows, (r.byte1.map Prod.fst).getD 0xC0 = 0xC0 := by decide

theorem OpcodeRow.applies_modOnly {r : OpcodeRow} (hr : r ∈ opcodeRows) (b0 b1 : Byte) :
    r.applies b0 (modOnly b1) = r.applies b0 b1 := by
  have hmask := mask1_eq_of_mem_opcodeRows r hr
  unfold OpcodeRow.applies
  cases hbyte1 : r.byte1 with
  | none => rfl
  | some test =>
    obtain ⟨mask1, match1⟩ := test
    obtain rfl : mask1 = 0xC0 := by simpa [hbyte1] using hmask
    simp only [← and_modMask]

theorem applyingMnemonics_modOnly (b0 b1 : Byte) : applyingMnemonics b0 (modOnly b1) = applyingMnemonics b0 b1 :=
  congrArg (List.map OpcodeRow.mnemonic) (List.filter_congr fun _ hr => OpcodeRow.applies_modOnly hr b0 b1)

theorem mnemonic_regMemInstr_modOnly (d w : Bit) (m : Byte) :
    (regMemInstr d w (modOnly m)).mnemonic = (regMemInstr d w m).mnemonic := by
  simp only [regMemInstr, modOnly, extractModRM_modRMByte]
  split_ifs <;> rfl

theorem applyingMnemonics_unsupported (b : Byte) (hform : classify b = .unsupported) (b1 : Byte) :
    applyingMnemonics b b1 = [(unsupportedInstr b).mnemonic] := by
  have hmod : ∀ b : Byte, classify b = .unsupported → ∀ mod : BitVec 2,
      applyingMnemonics b (modRMByte mod 0 0) = [(unsupportedInstr b).mnemonic] := by decide
  rw [← applyingMnemonics_modOnly]
  exact hmod b hform _

theorem applyingMnemonics_regMemByte (d w : Bit) (m : Byte) :
    applyingMnemonics (regMemByte d w) m = [(regMemInstr d w m).mnemonic] := by
  have hmod : ∀ (d w : Bit) (mod : BitVec 2), applyingMnemonics (regMemByte d w) (modRMByte mod 0 0) =
      [(regMemInstr d w (modRMByte mod 0 0)).mnemonic] := by decide
  rw [← applyingMnemonics_modOnly, ← mnemonic_regMemInstr_modOnly]
  exact hmod d w _

theorem applyingMnemonics_immediateByte (w : Bit) (reg : Sel) (b1 : Byte) :
    applyingMnemonics (immediateByte w reg) b1 = [if w = 0 then "MOV_r8__imm8" else "MOV_r16__imm16"] := by
  have hmod : ∀ (w : Bit) (reg : Sel) (mod : BitVec 2), applyingMnemonics (immediateByte w reg) (modRMByte mod 0 0) =
      [if w = 0 then "MOV_r8__imm8" else "MOV_r16__imm16"] := by decide
  rw [← applyingMnemonics_modOnly]
  exact hmod w reg _

/-- Settles O24: in each form of first byte exactly one row applies, and it is the decoded one. -/
theorem oneOpcodeRowApplies : Obligations.OneOpcodeRowApplies := by
  intro b0 b1 bytes rest i h
  change applyingMnemonics b0 b1 = [i.mnemonic]
  rcases decode_cases h with
    ⟨hform, -, rfl⟩ | ⟨d, w, m, hform, hbytes, rfl⟩ | ⟨reg, lo, hform, -, rfl⟩ | ⟨reg, lo, hi, hform, -, rfl⟩
  · exact applyingMnemonics_unsupported b0 hform b1
  · obtain ⟨rfl, -⟩ := List.cons.inj hbytes
    rw [← regMemByte_of_classify b0 d w hform, applyingMnemonics_regMemByte]
  · rw [← immediateByte_of_classify b0 0 reg hform, applyingMnemonics_immediateByte]; rfl
  · rw [← immediateByte_of_classify b0 1 reg hform, applyingMnemonics_immediateByte]; rfl

/-- Settles O4: the classifier is evaluated on each of the 256 bytes. -/
theorem firstByteMapHasTheSpecCounts : Obligations.FirstByteMapHasTheSpecCounts :=
  ⟨rfl, rfl, rfl⟩

/-- Settles O5: the fields are quotients of the byte's value, and `modRMByte` puts them back. -/
theorem modRMFieldsLoseNothing : Obligations.ModRMFieldsLoseNothing := by
  intro m
  have hlt := m.isLt
  refine ⟨?mod, ?reg, ?rm, (modRMByte_extractModRM m).symm⟩
  all_goals simp only [extractModRM_eq, BitVec.toNat_ofNat]
  all_goals omega

/-- Settles O21: each word is evaluated by the decoder. -/
theorem sampleWordsDecode : Obligations.SampleWordsDecode :=
  ⟨rfl, rfl, rfl, rfl, rfl, rfl, rfl, rfl⟩

end Sys2Proof
end

section
/-! Decimal numerals (R101): the recursion of `dec`, and its value, digits and length by it. -/

namespace Sys2Proof.Machine

/-- Any bound above `n` gives the digits that `dec` gives. -/
theorem decUpTo_eq_dec {fuel n : Nat} (h : n < fuel) : decUpTo fuel n = dec n := by
  induction n using Nat.strongRecOn generalizing fuel with
  | ind n ih =>
    obtain ⟨fuel, rfl⟩ := Nat.exists_eq_add_of_lt h
    by_cases hn : n < 10
    · simp only [dec, decUpTo, if_pos hn]
    · simp only [dec, decUpTo, if_neg hn]
      rw [ih (n / 10) (by omega) (by omega), ih (n / 10) (by omega) (by omega)]

theorem dec_of_lt {n : Nat} (h : n < 10) : dec n = [digit n] := by
  rw [dec, decUpTo, if_pos h]

theorem dec_of_ge {n : Nat} (h : ¬n < 10) : dec n = dec (n / 10) ++ [digit (n % 10)] := by
  rw [dec, decUpTo, if_neg h, decUpTo_eq_dec (by omega)]

/-- The induction over the recursion of `dec`. -/
theorem dec_induction {P : Nat → Prop} (single : ∀ n < 10, P n) (more : ∀ n, ¬n < 10 → P (n / 10) → P n) (n : Nat) : P n := by
  induction n using Nat.strongRecOn with
  | ind n ih =>
    by_cases hn : n < 10
    · exact single n hn
    · exact more n hn (ih (n / 10) (by omega))

theorem toNat_digit : ∀ k < 10, (digit k).toNat = 0x30 + k := by decide

theorem numeralValue_append (text : Text) (c : Char) :
    numeralValue (text ++ [c]) = 10 * numeralValue text + (c.toNat - 0x30) := List.foldl_append

theorem numeralValue_dec (n : Nat) : numeralValue (dec n) = n := by
  induction n using dec_induction with
  | single n h =>
    have hvalue : numeralValue [digit n] = 10 * 0 + ((digit n).toNat - 0x30) := rfl
    rw [dec_of_lt h, hvalue, toNat_digit n h]
    omega
  | more n h ih =>
    rw [dec_of_ge h, numeralValue_append, ih, toNat_digit _ (by omega)]
    omega

/-- A character that is a decimal digit. -/
def IsDigit (c : Char) : Prop := 0x30 ≤ c.toNat ∧ c.toNat ≤ 0x39

theorem isDigit_digit {k : Nat} (h : k < 10) : IsDigit (digit k) := by
  rw [IsDigit, toNat_digit k h]
  omega

theorem isDigit_of_mem_dec (n : Nat) : ∀ c ∈ dec n, IsDigit c := by
  induction n using dec_induction with
  | single n h =>
    rw [dec_of_lt h]
    exact List.forall_mem_singleton.mpr (isDigit_digit h)
  | more n h ih =>
    rw [dec_of_ge h]
    exact List.forall_mem_append.mpr ⟨ih, List.forall_mem_singleton.mpr (isDigit_digit (by omega))⟩

theorem length_dec_pos (n : Nat) : 0 < (dec n).length := by
  induction n using dec_induction with
  | single n h => simp [dec_of_lt h]
  | more n h _ => simp [dec_of_ge h]

/-- `m + 1` digits are enough for exactly the numbers below `10 ^ (m + 1)`. -/
theorem length_dec_le_iff (m n : Nat) : (dec n).length ≤ m + 1 ↔ n < 10 ^ (m + 1) := by
  induction m generalizing n with
  | zero =>
    by_cases h : n < 10
    · simp [dec_of_lt h, h]
    · have := length_dec_pos (n / 10)
      simp only [dec_of_ge h, List.length_append, List.length_singleton]
      omega
  | succ m ih =>
    by_cases h : n < 10
    · have : 10 ≤ 10 ^ (m + 1 + 1) := Nat.le_self_pow (by omega) 10
      simp only [dec_of_lt h, List.length_singleton]
      omega
    · rw [dec_of_ge h, List.length_append, List.length_singleton, Nat.add_le_add_iff_right, ih,
        Nat.div_lt_iff_lt_mul (by omega), ← Nat.pow_succ]

theorem length_dec_le_five {n : Nat} (h : n ≤ 65535) : (dec n).length ≤ 5 :=
  (length_dec_le_iff 4 n).mpr (by omega)

/-- No leading zero: the first digit of a numeral is its head's, and a single digit is not 0. -/
theorem head?_dec_ne_zero (n : Nat) : n ≠ 0 → (dec n).head? ≠ some '0' := by
  induction n using dec_induction with
  | single n h => rw [dec_of_lt h]; revert n; decide
  | more n h ih =>
    intro _
    rw [dec_of_ge h, List.head?_append_of_ne_nil _ (List.ne_nil_of_length_pos (length_dec_pos _))]
    exact ih (by omega)

/-- The value of a string of digits has no more digits than the string. -/
theorem numeralValue_lt {text : Text} (h : ∀ c ∈ text, IsDigit c) : numeralValue text < 10 ^ text.length := by
  induction text using List.reverseRecOn with
  | nil => exact Nat.one_pos
  | append_singleton text c ih =>
    obtain ⟨hinit, hlast⟩ := List.forall_mem_append.mp h
    obtain ⟨hlo, hhi⟩ := List.forall_mem_singleton.mp hlast
    have := ih hinit
    rw [numeralValue_append, List.length_append, List.length_singleton, Nat.pow_succ]
    omega

/-- Settles O11: the recursion is the definition's with the bound removed, and the other clauses go by it. -/
theorem decimalNumeralIsTheShortest : Obligations.DecimalNumeralIsTheShortest := by
  refine ⟨fun n => ?recursion, fun n _ => ⟨numeralValue_dec n, isDigit_of_mem_dec n, ?length, head?_dec_ne_zero n,
    fun text hne hdigits hvalue => ?shortest⟩⟩
  case recursion =>
    split_ifs with h
    · exact dec_of_lt h
    · exact dec_of_ge h
  case length =>
    have h0 := length_dec_pos n
    have h1 := length_dec_le_iff 0 n
    have h2 := length_dec_le_iff 1 n
    have h3 := length_dec_le_iff 2 n
    have h4 := length_dec_le_iff 3 n
    have h5 := length_dec_le_iff 4 n
    split_ifs <;> omega
  case shortest =>
    obtain ⟨m, hm⟩ := Nat.exists_eq_add_one_of_ne_zero (mt List.length_eq_zero_iff.mp hne)
    have hlt := numeralValue_lt hdigits
    rw [hvalue, hm] at hlt
    rw [hm]
    exact (length_dec_le_iff m n).mpr hlt

end Sys2Proof.Machine
end

section
/-! Register names and immediates, and what the lines made of them determine (R47, R57, R71 to R79, R106). -/

namespace Sys2Proof.Machine

@[simp] theorem length_regName (w : Bit) (sel : Sel) : (regName w sel).length = 2 := by
  revert w sel; decide

theorem nodup_nameTable : nameTable.toList.Nodup := by decide

theorem regName_injective (w w' : Bit) (sel sel' : Sel) (h : regName w sel = regName w' sel') : w = w' ∧ sel = sel' := by
  have hindex : 8 * w.toNat + sel.toNat = 8 * w'.toNat + sel'.toNat := (nodup_nameTable.getElem_inj_iff).mp h
  have hsel := sel.isLt
  have hsel' := sel'.isLt
  exact ⟨BitVec.eq_of_toNat_eq (by omega), BitVec.eq_of_toNat_eq (by omega)⟩

theorem letters_eq_regName : ∀ (w : Bit) (sel : Sel), [firstLetter w sel, secondLetter w sel] = regName w sel := by
  decide

/-- Settles O7: the two letters are evaluated for the sixteen inputs. -/
theorem nameLettersAgreeWithTheTable : Obligations.NameLettersAgreeWithTheTable := letters_eq_regName

/-- The letters of the sixteen names (R75 d). -/
def nameLetters : List Char := ['a', 'b', 'c', 'd', 'h', 'i', 'l', 'p', 's', 'x']

theorem firstLetter_mem : ∀ (w : Bit) (sel : Sel), firstLetter w sel ∈ nameLetters := by decide

theorem secondLetter_mem : ∀ (w : Bit) (sel : Sel), secondLetter w sel ∈ nameLetters := by decide

theorem mem_nameLetters_of_mem_regName (w : Bit) (sel : Sel) : ∀ c ∈ regName w sel, c ∈ nameLetters := by
  rw [← letters_eq_regName]
  exact List.forall_mem_cons.mpr ⟨firstLetter_mem w sel, List.forall_mem_singleton.mpr (secondLetter_mem w sel)⟩

/-- Settles O8: the entries of the table differ, and their letters are the two that the letter algorithm gives. -/
theorem namesAreDistinctPairsOfLetters : Obligations.NamesAreDistinctPairsOfLetters :=
  ⟨regName_injective, fun w sel => ⟨length_regName w sel, mem_nameLetters_of_mem_regName w sel⟩⟩

theorem length_renderMov (dst src : Operand) :
    (renderMov { dst, src }).length = 6 + (renderOperand dst).length + (renderOperand src).length := by
  simp only [renderMov_eq, List.length_append, List.length_cons, List.length_nil]
  omega

theorem length_renderMov_regs (w : Bit) (dst src : Sel) :
    (renderMov { dst := .reg w dst, src := .reg w src }).length = 10 := by
  rw [length_renderMov, renderOperand_reg, renderOperand_reg, length_regName, length_regName]

/-- Settles O13: a name has two characters and a 16-bit value one to five digits. -/
theorem moveLinesHaveTheSpecLengths : Obligations.MoveLinesHaveTheSpecLengths := by
  refine ⟨fun d w reg rm => ?registers, fun w reg v => ?immediate⟩
  case registers =>
    obtain rfl | rfl := BitVec.eq_zero_or_eq_one d
    · exact length_renderMov_regs w rm reg
    · exact length_renderMov_regs w reg rm
  case immediate =>
    have hpos := length_dec_pos v.toNat
    have hle : (dec v.toNat).length ≤ 5 := length_dec_le_five (by have := v.isLt; omega)
    rw [length_renderMov, renderOperand_reg, renderOperand_imm, length_regName]
    omega

theorem toNat_setWidth_byte (lo : Byte) : (lo.setWidth 16).toNat = lo.toNat :=
  BitVec.toNat_setWidth_of_le (by omega)

/-- R79: joining the shifted high byte to the low one adds 256 times its value. -/
theorem toNat_joinBytes (lo hi : Byte) : (lo.setWidth 16 ||| (hi.setWidth 16 <<< 8)).toNat = lo.toNat + 256 * hi.toNat := by
  have hhi := hi.isLt
  have hshift : hi.toNat <<< 8 % 2 ^ 16 = 2 ^ 8 * hi.toNat := by
    rw [Nat.shiftLeft_eq, Nat.mul_comm]
    exact Nat.mod_eq_of_lt (by omega)
  rw [BitVec.toNat_or, BitVec.toNat_shiftLeft, toNat_setWidth_byte, toNat_setWidth_byte, hshift, Nat.or_comm,
    ← Nat.two_pow_add_eq_or_of_lt lo.isLt, Nat.add_comm]

/-- R79 with R57: a value is assembled from its low and its high byte. -/
theorem assembleImm16_bytes (v : BitVec 16) :
    assembleImm16 (BitVec.ofNat 8 v.toNat) (BitVec.ofNat 8 (v.toNat / 256)) = .imm 1 v := by
  have hv := v.isLt
  refine congrArg (Operand.imm 1) (BitVec.eq_of_toNat_eq ?_)
  rw [toNat_joinBytes, BitVec.toNat_ofNat, BitVec.toNat_ofNat]
  omega

theorem resolveOperands_modRMByte_three (d w : Bit) (reg rm : Sel) :
    resolveOperands d w (modRMByte 3 reg rm) = .pair (orderByDirection d w reg rm) := by
  rw [resolveOperands, extractModRM_modRMByte, if_pos rfl]

/-- R57: the two names of a register line are its characters at fixed places. -/
theorem renderMov_regs_injective {w : Bit} {a b a' b' : Sel}
    (h : renderMov { dst := .reg w a, src := .reg w b } = renderMov { dst := .reg w a', src := .reg w b' }) :
    a = a' ∧ b = b' := by
  have hlen : ∀ sel sel', (regName w sel).length = (regName w sel').length := fun sel sel' => by
    rw [length_regName, length_regName]
  simp only [renderMov_eq, renderOperand_reg, List.append_assoc, List.append_cancel_left_eq] at h
  obtain ⟨hdst, hrest⟩ := List.append_inj h (hlen a a')
  exact ⟨(regName_injective w w a a' hdst).2, (regName_injective w w b b' (List.append_cancel_left hrest)).2⟩

/-- Settles O26: D places the operands in the fields, the line shows both names, and the two bytes show the value. -/
theorem operandsSurviveReencoding : Obligations.OperandsSurviveReencoding := by
  refine ⟨fun d w a b => ⟨classify_regMemByte d w, ?pair⟩, fun w a b a' b' => renderMov_regs_injective,
    fun reg v => ⟨_, _, decode_of_classify_immediate16 (classify_immediateByte 1 reg) _ _ _, assembleImm16_bytes v⟩⟩
  case pair =>
    rw [resolveOperands_modRMByte_three]
    obtain rfl | rfl := BitVec.eq_zero_or_eq_one d <;> rfl

end Sys2Proof.Machine
end

section
/-! What each instruction puts out, in the words of the table NAME, and the whole state it leaves (R85 to R88, R108 to R118). -/

namespace Sys2Proof.Machine

/-- R70: at width 0 the names are the table's first eight. -/
theorem regName_zero (sel : Sel) : regName 0 sel = name8 sel := by
  simp [regName, name8]

/-- R70: at width 1 they are the last eight. -/
theorem regName_one (sel : Sel) : regName 1 sel = name16 sel := rfl

theorem renderMov_eq_moveLine (dst src : Operand) :
    renderMov { dst, src } = moveLine (renderOperand dst) (renderOperand src) := by
  have hmnemonic : "mov".toList ++ " ".toList = "mov ".toList := rfl
  have hcomma : ",".toList ++ " ".toList = ", ".toList := rfl
  unfold renderMov moveLine
  rw [hmnemonic, List.append_assoc _ ",".toList, hcomma]

/-- R108, R110: the line of an 8-bit register move. -/
theorem renderMov_regs8 (dst src : Sel) :
    renderMov { dst := .reg 0 dst, src := .reg 0 src } = moveLine (name8 dst) (name8 src) := by
  rw [renderMov_eq_moveLine, renderOperand_reg, renderOperand_reg, regName_zero, regName_zero]

/-- R109, R111: the line of a 16-bit register move. -/
theorem renderMov_regs16 (dst src : Sel) :
    renderMov { dst := .reg 1 dst, src := .reg 1 src } = moveLine (name16 dst) (name16 src) :=
  renderMov_eq_moveLine _ _

/-- R114: the line of an 8-bit immediate move. -/
theorem renderMov_imm8 (reg : Sel) (lo : Byte) :
    renderMov { dst := .reg 0 reg, src := assembleImm8 lo } = moveLine (name8 reg) (dec lo.toNat) := by
  rw [renderMov_eq_moveLine, assembleImm8, renderOperand_reg, renderOperand_imm, regName_zero, toNat_setWidth_byte]

/-- R115: the line of a 16-bit immediate move. -/
theorem renderMov_imm16 (reg : Sel) (lo hi : Byte) : renderMov { dst := .reg 1 reg, src := assembleImm16 lo hi } =
    moveLine (name16 reg) (dec (lo.toNat + 256 * hi.toNat)) := by
  rw [renderMov_eq_moveLine, assembleImm16, renderOperand_reg, renderOperand_imm, regName_one, toNat_joinBytes]

/-- The state after an instruction's last byte: its one event, the framer at an instruction boundary, the byte consumed. -/
def State.afterInstr (i : Instr) (s : State) : State :=
  { s with fsm := .expectOpcode, cursor := s.cursor + 1, trace := s.trace ++ [instrOutput s.cursor i] }

/-- A register move completes with its line, in the order of its D (R86). -/
theorem exec_registerRow (d w : Bit) (reg rm : Sel) (s : State) :
    exec (registerRow d w reg rm) s = .next (s.afterLine (renderMov (orderByDirection d w reg rm))) := by
  cases d, w using bits_cases <;> rfl

theorem exec_eq (i : Instr) (s : State) : exec i s = .next (s.afterInstr i) := by
  cases i with
  | movRm8R8 reg rm =>
    exact (exec_registerRow 0 0 reg rm s).trans (by rw [orderByDirection_zero, renderMov_regs8]; rfl)
  | movRm16R16 reg rm =>
    exact (exec_registerRow 0 1 reg rm s).trans (by rw [orderByDirection_zero, renderMov_regs16]; rfl)
  | movR8Rm8 reg rm =>
    exact (exec_registerRow 1 0 reg rm s).trans (by rw [orderByDirection_one, renderMov_regs8]; rfl)
  | movR16Rm16 reg rm =>
    exact (exec_registerRow 1 1 reg rm s).trans (by rw [orderByDirection_one, renderMov_regs16]; rfl)
  | movR8Imm8 reg lo => rw [exec_movR8Imm8, renderMov_imm8]; rfl
  | movR16Imm16 reg lo hi => rw [exec_movR16Imm16, renderMov_imm16]; rfl
  | movMemMod0 | movMemMod1 | movMemMod2 => exact rejectMode_eq s
  | _ => exact rejectOpcode_eq s

/-- Settles O18: it is `exec_eq` with the state after written out. -/
theorem everyInstructionCompletes : Obligations.EveryInstructionCompletes := exec_eq

/-- Settles O19: the fields of the one state an instruction can leave. -/
theorem instructionFrame : Obligations.InstructionFrame := by
  intro i s t h
  rw [exec_eq] at h
  cases h
  exact ⟨rfl, fun _ => rfl, rfl, rfl, rfl, rfl, rfl, rfl⟩

theorem regMemByte_ne_of_direction : ∀ w : Bit, regMemByte 0 w ≠ regMemByte 1 w := by decide

/-- Settles O20: the first bytes differ in D, and both rows put out the same line. -/
theorem twoEncodingsPrintOneLine : Obligations.TwoEncodingsPrintOneLine := by
  refine fun a b s => ⟨fun h => ?bytes8, ?exec8, fun h => ?bytes16, ?exec16⟩
  case bytes8 => exact regMemByte_ne_of_direction 0 (List.cons.inj h).1
  case exec8 => rw [exec_eq, exec_eq]; rfl
  case bytes16 => exact regMemByte_ne_of_direction 1 (List.cons.inj h).1
  case exec16 => rw [exec_eq, exec_eq]; rfl

/-- R86: the second byte runs the register row that prints the resolved pair. -/
theorem exec_regMemInstr_of_pair {d w : Bit} {m : Byte} {p : OperandPair} (h : resolveOperands d w m = .pair p)
    (s : State) : exec (regMemInstr d w m) s = .next (s.afterLine (renderMov p)) := by
  by_cases hmod : m.toNat / 64 = 3
  · obtain ⟨reg, rm, rfl⟩ := exists_eq_modRMByte (mod := 3) hmod
    rw [resolveOperands_modRMByte_three, Resolution.pair.injEq] at h
    rw [regMemInstr_modRMByte_three, exec_registerRow, h]
  · rw [resolveOperands_of_mod_ne_three d w hmod] at h
    contradiction

/-- R86, R118: with any other MOD one of the three memory rows runs. -/
theorem exec_regMemInstr_of_mod_ne_three (d w : Bit) {m : Byte} (hmod : m.toNat / 64 ≠ 3) (s : State) :
    exec (regMemInstr d w m) s = .next (s.afterDiag .unsupportedAddressingMode) := by
  have hlt := m.isLt
  obtain h0 | h1 | h2 : m.toNat / 64 = 0 ∨ m.toNat / 64 = 1 ∨ m.toNat / 64 = 2 := by omega
  · obtain ⟨reg, rm, rfl⟩ := exists_eq_modRMByte (mod := 0) h0
    rw [isMemoryRow_movMemMod0.regMemInstr_eq, isMemoryRow_movMemMod0.exec_eq, rejectMode_eq]
  · obtain ⟨reg, rm, rfl⟩ := exists_eq_modRMByte (mod := 1) h1
    rw [isMemoryRow_movMemMod1.regMemInstr_eq, isMemoryRow_movMemMod1.exec_eq, rejectMode_eq]
  · obtain ⟨reg, rm, rfl⟩ := exists_eq_modRMByte (mod := 2) h2
    rw [isMemoryRow_movMemMod2.regMemInstr_eq, isMemoryRow_movMemMod2.exec_eq, rejectMode_eq]

theorem mod_ne_three_of_unsupportedMode {d w : Bit} {m : Byte} (h : resolveOperands d w m = .unsupportedMode) :
    m.toNat / 64 ≠ 3 := fun hmod => by
  rw [resolveOperands_of_mod_three d w hmod] at h
  contradiction

/-- Settles O30: the byte's row is a register row exactly when it resolves to a pair. -/
theorem secondByteTransition : Obligations.SecondByteTransition := by
  intro s d w m hr hf hb
  have hstep : step s = exec (regMemInstr d w m) s := (step_byte hr hb).trans (byteStep_expectModRM hf m)
  refine ⟨fun p hp => ?pair, fun hmode => ?mode⟩
  case pair => rw [hstep, exec_regMemInstr_of_pair hp]
  case mode => rw [hstep, exec_regMemInstr_of_mod_ne_three d w (mod_ne_three_of_unsupportedMode hmode)]

end Sys2Proof.Machine
end

section
/-! The endings of a stream (R89 to R91), at its end and past it, and the immediates of the framer with them (R78, R79). -/

namespace Sys2Proof.Machine

theorem readErrorStep_eq (s : State) : readErrorStep s = .next (s.afterFatal .sourceReadError) := rfl

theorem endOfStreamStep_of_ne {s : State} (hf : s.fsm ≠ .expectOpcode) :
    endOfStreamStep s = .next (s.afterFatal .truncatedInstruction) := by
  unfold endOfStreamStep
  cases h : s.fsm with
  | expectOpcode => exact absurd h hf
  | expectModRM | expectImmediateLow | expectImmediateHigh => rfl

theorem step_readError {s : State} (hr : s.run = .running) (hb : s.byteAt s.cursor = none)
    (he : s.source.ending = .readError) : step s = .next (s.afterFatal .sourceReadError) := by
  rw [step_ending hr hb, he, ← readErrorStep_eq]

theorem step_truncated {s : State} (hr : s.run = .running) (hb : s.byteAt s.cursor = none)
    (he : s.source.ending = .endOfStream) (hf : s.fsm ≠ .expectOpcode) :
    step s = .next (s.afterFatal .truncatedInstruction) := by
  rw [step_ending hr hb, he, ← endOfStreamStep_of_ne hf]

theorem step_endClean {s : State} (hr : s.run = .running) (hb : s.byteAt s.cursor = none)
    (he : s.source.ending = .endOfStream) (hf : s.fsm = .expectOpcode) : step s = .next s.endClean := by
  rw [step_ending hr hb, he, ← endOfStreamStep_expectOpcode hf]

/-- Settles O34: the end of the stream is where no byte is left. -/
theorem truncationTransition : Obligations.TruncationTransition :=
  fun _ hr hf hend he => step_truncated hr (State.byteAt_eq_none_iff.mpr hend.ge) he hf

/-- Settles O35: the same for a read error, in every framer state. -/
theorem readErrorTransition : Obligations.ReadErrorTransition :=
  fun _ hr hend he => step_readError hr (State.byteAt_eq_none_iff.mpr hend.ge) he

/-- Settles O10: the values of the two assemblers, and the framer's transitions on the data bytes. -/
theorem immediateIsUnsignedLittleEndian : Obligations.ImmediateIsUnsignedLittleEndian := by
  refine ⟨fun lo => ⟨_, rfl, toNat_setWidth_byte lo⟩, fun lo hi => ⟨_, rfl, toNat_joinBytes lo hi⟩,
    fun s reg hr => ⟨fun lo hf hb => ?narrow, fun lo hf hb => ?wide, fun lo hi hf hb => ?high, fun lo hf hb he => ?truncated⟩⟩
  case narrow => exact ⟨_, (immediateLowTransition s 0 reg lo hr hf hb).1 rfl, rfl⟩
  case wide => exact ⟨_, (immediateLowTransition s 1 reg lo hr hf hb).2 rfl, rfl⟩
  case high => exact immediateHighTransition s reg lo hi hr hf hb
  case truncated => exact step_truncated hr hb he (by rw [hf]; exact Fsm.noConfusion)

end Sys2Proof.Machine
end

section
/-! The two families of moves from their bytes to their lines (R107 to R111, R113 to R115). -/

namespace Sys2Proof.Machine

theorem regMemInstr_of_mod_three (d w : Bit) {m : Byte} (hmod : m.toNat / 64 = 3) :
    regMemInstr d w m = registerRow d w (BitVec.ofNat 3 (m.toNat / 8)) (BitVec.ofNat 3 m.toNat) := by
  have hfield := (extractModRM_mod_eq_three_iff m).mpr hmod
  conv_lhs => rw [← modRMByte_extractModRM m, hfield, regMemInstr_modRMByte_three, extractModRM_eq]

theorem decode_registerRow {b m : Byte} {d w : Bit} (hform : classify b = .regMemMove d w) (hmod : m.toNat / 64 = 3) :
    decode [b, m] = .instr (registerRow d w (BitVec.ofNat 3 (m.toNat / 8)) (BitVec.ofNat 3 m.toNat)) [] := by
  rw [decode_of_classify_regMemMove hform, regMemInstr_of_mod_three d w hmod]

/-- R107, step 2: the second byte runs the register row of its fields. -/
theorem step_registerRow {d w : Bit} {reg rm : Sel} {m : Byte} {s : State}
    (hm : m.toNat = 0b11000000 + 8 * reg.toNat + rm.toNat) (hr : s.run = .running) (hb : s.byteAt s.cursor = some m)
    (hf : s.fsm = .expectModRM d w) : step s = exec (registerRow d w reg rm) s := by
  have hbyte : m = modRMByte 3 reg rm := BitVec.eq_of_toNat_eq (hm.trans (toNat_modRMByte 3 reg rm).symm)
  rw [step_byte hr hb, byteStep_expectModRM hf, hbyte, regMemInstr_modRMByte_three]

/-- Settles O14: the four rows are `registerRow` at the four values of D and W. -/
theorem registerMovesPrintTheirLine : Obligations.RegisterMovesPrintTheirLine := by
  refine ⟨fun m hmod => ?decode, fun reg rm m s hm hr hb => ?step,
    fun s hr hb => ⟨fun he d w hf => ?truncated, step_readError hr hb⟩⟩
  case decode =>
    exact ⟨decode_registerRow (d := 0) (w := 0) rfl hmod, decode_registerRow (d := 0) (w := 1) rfl hmod,
      decode_registerRow (d := 1) (w := 0) rfl hmod, decode_registerRow (d := 1) (w := 1) rfl hmod⟩
  case step =>
    exact ⟨fun hf => ⟨step_registerRow hm hr hb hf, exec_eq _ s⟩, fun hf => ⟨step_registerRow hm hr hb hf, exec_eq _ s⟩,
      fun hf => ⟨step_registerRow hm hr hb hf, exec_eq _ s⟩, fun hf => ⟨step_registerRow hm hr hb hf, exec_eq _ s⟩⟩
  case truncated => exact step_truncated hr hb he (by rw [hf]; exact Fsm.noConfusion)

/-- R42: the eight first bytes of each width. -/
theorem classify_of_immediate {b : Byte} {w : Bit} (hlo : 0xB0 + 8 * w.toNat ≤ b.toNat) (hhi : b.toNat ≤ 0xB7 + 8 * w.toNat) :
    classify b = .immediateToRegMove w (BitVec.ofNat 3 b.toNat) := by
  have hw := w.isLt
  have hwidth : BitVec.ofNat 1 (b.toNat / 8) = w := BitVec.eq_of_toNat_eq (by rw [BitVec.toNat_ofNat]; omega)
  rw [classify_eq, if_pos (by omega), hwidth]

/-- Settles O15: the ranges of R42 give the form, and the transitions of R87 and R88 run the rows. -/
theorem immediateMovesPrintTheirLine : Obligations.ImmediateMovesPrintTheirLine := by
  refine ⟨fun b lo hi => ⟨fun hlo hhi => ?decode8, fun hlo hhi => ?decode16⟩,
    fun reg lo hi s hr => ⟨fun hf hb => ?step8, fun hf hb => ?step16⟩,
    fun s hr hb => ⟨fun he hf => step_truncated hr hb he ?inside, step_readError hr hb⟩⟩
  case decode8 => exact decode_of_classify_immediate8 (classify_of_immediate (w := 0) hlo hhi) lo []
  case decode16 => exact decode_of_classify_immediate16 (classify_of_immediate (w := 1) hlo hhi) lo hi []
  case step8 => exact ⟨(step_byte hr hb).trans (byteStep_expectImmediateLow hf lo), exec_eq _ s⟩
  case step16 => exact ⟨(step_byte hr hb).trans (byteStep_expectImmediateHigh hf hi), exec_eq _ s⟩
  case inside => rcases hf with ⟨w, reg, hf⟩ | ⟨reg, lo, hf⟩ <;> simp [hf]

end Sys2Proof.Machine
end

section
/-! The step against the decoder: the byte read, after the bytes that the latches hold, either completes an instruction or is
added to the latches; and the five things a step can do, with their whole states. -/

namespace Sys2Proof.Machine

/-- A byte's step follows the decoder's answer on the bytes held and the byte. -/
theorem byteStep_follows_decode (b : Byte) (s : State) :
    (∃ i, decode (s.fsm.held ++ [b]) = .instr i [] ∧ byteStep b s = exec i s) ∨
      ∃ r f, decode (s.fsm.held ++ [b]) = .rejected r ∧ f.held = s.fsm.held ++ [b] ∧
        byteStep b s = .next (s.afterLatch f) := by
  cases hf : s.fsm with
  | expectOpcode =>
    rw [byteStep_expectOpcode hf]
    cases hform : classify b with
    | regMemMove d w =>
      exact .inr ⟨.missingModRM, .expectModRM d w, by simp only [Fsm.held, List.nil_append, decode, hform],
        congrArg ([·]) (regMemByte_of_classify b d w hform), opcodeByte_regMemMove hform s⟩
    | immediateToRegMove w reg =>
      exact .inr ⟨.missingImmediateLow, .expectImmediateLow w reg, by simp only [Fsm.held, List.nil_append, decode, hform],
        congrArg ([·]) (immediateByte_of_classify b w reg hform), opcodeByte_immediateToRegMove hform s⟩
    | unsupported =>
      exact .inl ⟨unsupportedInstr b, decode_of_classify_unsupported hform [], by simp only [opcodeByte, hform]⟩
  | expectModRM d w =>
    exact .inl ⟨regMemInstr d w b, decode_of_classify_regMemMove (classify_regMemByte d w) b [], byteStep_expectModRM hf b⟩
  | expectImmediateLow w reg =>
    rw [byteStep_expectImmediateLow hf]
    obtain rfl | rfl := BitVec.eq_zero_or_eq_one w
    · exact .inl ⟨.movR8Imm8 reg b, decode_of_classify_immediate8 (classify_immediateByte 0 reg) b [], rfl⟩
    · refine .inr ⟨.missingImmediateHigh, .expectImmediateHigh reg b, ?_, rfl, rfl⟩
      simp only [Fsm.held, List.singleton_append, decode, classify_immediateByte, if_neg (by decide : (1#1 : Bit) ≠ 0)]
  | expectImmediateHigh reg lo =>
    exact .inl ⟨.movR16Imm16 reg lo b, decode_of_classify_immediate16 (classify_immediateByte 1 reg) lo b [],
      byteStep_expectImmediateHigh hf b⟩

/-- The five reactions of a running block, with the whole state that each leaves (R85 to R91). -/
inductive Reaction (s : State) : State → Prop
  /-- The byte completes an instruction. -/
  | completes {b : Byte} {i : Instr} (hbyte : s.byteAt s.cursor = some b)
      (hdecode : decode (s.fsm.held ++ [b]) = .instr i []) : Reaction s (s.afterInstr i)
  /-- The byte is added to the latches. -/
  | latches {b : Byte} {r : Rejection} {f : Fsm} (hbyte : s.byteAt s.cursor = some b)
      (hdecode : decode (s.fsm.held ++ [b]) = .rejected r) (hheld : f.held = s.fsm.held ++ [b]) : Reaction s (s.afterLatch f)
  /-- The stream ends at an instruction boundary. -/
  | endsClean (hnone : s.byteAt s.cursor = none) (hending : s.source.ending = .endOfStream) (hfsm : s.fsm = .expectOpcode) :
      Reaction s s.endClean
  /-- The stream ends inside an instruction. -/
  | truncates (hnone : s.byteAt s.cursor = none) (hending : s.source.ending = .endOfStream) (hfsm : s.fsm ≠ .expectOpcode) :
      Reaction s (s.afterFatal .truncatedInstruction)
  /-- The source fails. -/
  | failsToRead (hnone : s.byteAt s.cursor = none) (hending : s.source.ending = .readError) :
      Reaction s (s.afterFatal .sourceReadError)

/-- A running block always reacts. -/
theorem exists_step_reaction {s : State} (hr : s.run = .running) : ∃ t, step s = .next t ∧ Reaction s t := by
  cases hb : s.byteAt s.cursor with
  | some b =>
    rw [step_byte hr hb]
    rcases byteStep_follows_decode b s with ⟨i, hdecode, hstep⟩ | ⟨r, f, hdecode, hheld, hstep⟩
    · exact ⟨_, hstep.trans (exec_eq i s), .completes hb hdecode⟩
    · exact ⟨_, hstep, .latches hb hdecode hheld⟩
  | none =>
    cases he : s.source.ending with
    | readError => exact ⟨_, step_readError hr hb he, .failsToRead hb he⟩
    | endOfStream =>
      by_cases hf : s.fsm = .expectOpcode
      · exact ⟨_, step_endClean hr hb he hf, .endsClean hb he hf⟩
      · exact ⟨_, step_truncated hr hb he hf, .truncates hb he hf⟩

/-- Inversion of a step: what it can do. -/
theorem reaction_of_step {s t : State} (h : step s = .next t) : Reaction s t := by
  obtain ⟨u, hu, hreact⟩ := exists_step_reaction (running_of_step_next h)
  rw [h] at hu
  cases hu
  exact hreact

theorem step_of_decode_instr {s : State} {b : Byte} {i : Instr} (hr : s.run = .running) (hb : s.byteAt s.cursor = some b)
    (hdecode : decode (s.fsm.held ++ [b]) = .instr i []) : step s = exec i s := by
  rw [step_byte hr hb]
  rcases byteStep_follows_decode b s with ⟨j, hj, hstep⟩ | ⟨r, f, hrejected, -, -⟩
  · rw [hdecode] at hj
    cases hj
    exact hstep
  · rw [hdecode] at hrejected
    cases hrejected

theorem step_of_decode_rejected {s : State} {b : Byte} {r : Rejection} (hr : s.run = .running)
    (hb : s.byteAt s.cursor = some b) (hdecode : decode (s.fsm.held ++ [b]) = .rejected r) :
    ∃ f : Fsm, f.held = s.fsm.held ++ [b] ∧ step s = .next (s.afterLatch f) := by
  rw [step_byte hr hb]
  rcases byteStep_follows_decode b s with ⟨i, hi, -⟩ | ⟨-, f, -, hheld, hstep⟩
  · rw [hdecode] at hi
    cases hi
  · exact ⟨f, hheld, hstep⟩

/-- Settles O27: the byte's step follows the decoder. -/
theorem lastByteRunsTheInstruction : Obligations.LastByteRunsTheInstruction :=
  fun _ _ _ hr hb hdecode _ => step_of_decode_instr hr hb hdecode

/-- Settles O28: the byte's step follows the decoder. -/
theorem earlierByteOnlySetsTheLatches : Obligations.EarlierByteOnlySetsTheLatches :=
  fun _ _ _ hr hb hdecode => step_of_decode_rejected hr hb hdecode

end Sys2Proof.Machine
end

section
/-! The listing (Machine/Listing.lean): its recursion without the bound, its induction, and its answer on a longer sequence. -/

namespace Sys2Proof

theorem encode_length (i : Instr) : (encode i).length = i.length ∧ 1 ≤ i.length := by
  rcases i.cases_by_form with ⟨b, hform, rfl⟩ | ⟨d, w, m, rfl⟩ | ⟨reg, lo, rfl⟩ | ⟨reg, lo, hi, rfl⟩
  · rw [encode_unsupportedInstr b hform, unsupportedInstr_length]; exact ⟨rfl, le_rfl⟩
  · rw [encode_regMemInstr, regMemInstr_length]; exact ⟨rfl, by omega⟩
  · exact ⟨rfl, Nat.le_add_left 1 1⟩
  · exact ⟨rfl, Nat.le_add_left 1 2⟩

theorem length_of_decode_eq {bytes rest : List Byte} {i : Instr} (h : decode bytes = .instr i rest) :
    i.length + rest.length = bytes.length := by
  rw [← encode_append_of_decode h, List.length_append, (encode_length i).1]

/-- More bytes at the end do not change the first instruction. -/
theorem decode_append {bytes rest : List Byte} {i : Instr} (h : decode bytes = .instr i rest) (more : List Byte) :
    decode (bytes ++ more) = .instr i (rest ++ more) := by
  rw [← encode_append_of_decode h, List.append_assoc, decode_encode]

namespace Machine

/-- The listing of a byte sequence that starts at offset `off`. -/
def listFrom (off : Nat) (bytes : List Byte) : List OutputEvent × List Byte := listUpTo bytes.length off bytes

theorem listing_eq_listFrom (bytes : List Byte) : listing bytes = listFrom 0 bytes := rfl

theorem listUpTo_of_instr {fuel off : Nat} {bytes rest : List Byte} {i : Instr} (h : decode bytes = .instr i rest) :
    listUpTo (fuel + 1) off bytes = (instrOutput (off + i.length - 1) i :: (listUpTo fuel (off + i.length) rest).1,
      (listUpTo fuel (off + i.length) rest).2) := by
  simp only [listUpTo, h]

theorem listUpTo_of_rejected {fuel off : Nat} {bytes : List Byte} {r : Rejection} (h : decode bytes = .rejected r) :
    listUpTo fuel off bytes = ([], bytes) := by
  cases fuel with
  | zero => rfl
  | succ fuel => simp only [listUpTo, h]

/-- The induction over the instructions of a byte sequence: it begins with none, or with one and goes on after it. -/
theorem decode_induction {P : List Byte → Prop} (rejected : ∀ bytes r, decode bytes = .rejected r → P bytes)
    (instr : ∀ bytes i rest, decode bytes = .instr i rest → P rest → P bytes) (bytes : List Byte) : P bytes := by
  induction hn : bytes.length using Nat.strongRecOn generalizing bytes with
  | ind n ih =>
    cases h : decode bytes with
    | rejected r => exact rejected bytes r h
    | instr i rest =>
      have hlen := length_of_decode_eq h
      have hpos := (encode_length i).2
      exact instr bytes i rest h (ih rest.length (by omega) rest rfl)

/-- A bound of one unit a byte is enough, and more changes nothing. -/
theorem listUpTo_eq_listFrom {fuel off : Nat} {bytes : List Byte} (h : bytes.length ≤ fuel) :
    listUpTo fuel off bytes = listFrom off bytes := by
  unfold listFrom
  induction bytes using decode_induction generalizing fuel off with
  | rejected bytes r hr => rw [listUpTo_of_rejected hr, listUpTo_of_rejected hr]
  | instr bytes i rest hi ih =>
    have hlen := length_of_decode_eq hi
    have hpos := (encode_length i).2
    obtain ⟨m, hm⟩ : ∃ m, bytes.length = m + 1 := ⟨bytes.length - 1, by omega⟩
    obtain ⟨n, rfl⟩ : ∃ n, fuel = n + 1 := ⟨fuel - 1, by omega⟩
    rw [hm, listUpTo_of_instr hi, listUpTo_of_instr hi, ih (fuel := n) (by omega), ih (fuel := m) (by omega)]

theorem listFrom_of_instr {off : Nat} {bytes rest : List Byte} {i : Instr} (h : decode bytes = .instr i rest) :
    listFrom off bytes = (instrOutput (off + i.length - 1) i :: (listFrom (off + i.length) rest).1,
      (listFrom (off + i.length) rest).2) := by
  have hlen := length_of_decode_eq h
  rw [← listUpTo_eq_listFrom (Nat.le_succ bytes.length), listUpTo_of_instr h, listUpTo_eq_listFrom (by omega)]

theorem listFrom_of_rejected {off : Nat} {bytes : List Byte} {r : Rejection} (h : decode bytes = .rejected r) :
    listFrom off bytes = ([], bytes) := listUpTo_of_rejected h

@[simp] theorem listFrom_nil (off : Nat) : listFrom off [] = ([], []) := rfl

theorem length_listFrom_left_le (off : Nat) (bytes : List Byte) : (listFrom off bytes).2.length ≤ bytes.length := by
  induction bytes using decode_induction generalizing off with
  | rejected bytes r hr => rw [listFrom_of_rejected hr]
  | instr bytes i rest hi ih =>
    have hlen := length_of_decode_eq hi
    have := ih (off + i.length)
    rw [listFrom_of_instr hi]
    dsimp only
    omega

/-- The listing of a longer sequence goes on from the bytes left over, at the offset of the first of them. -/
theorem listFrom_append (off : Nat) (bytes more : List Byte) :
    listFrom off (bytes ++ more) =
      ((listFrom off bytes).1 ++
          (listFrom (off + (bytes.length - (listFrom off bytes).2.length)) ((listFrom off bytes).2 ++ more)).1,
        (listFrom (off + (bytes.length - (listFrom off bytes).2.length)) ((listFrom off bytes).2 ++ more)).2) := by
  induction bytes using decode_induction generalizing off with
  | rejected bytes r hr =>
    rw [listFrom_of_rejected hr, Nat.sub_self, Nat.add_zero, List.nil_append]
  | instr bytes i rest hi ih =>
    have hlen := length_of_decode_eq hi
    have hleft := length_listFrom_left_le (off + i.length) rest
    have hoff : off + (bytes.length - (listFrom (off + i.length) rest).2.length) =
        off + i.length + (rest.length - (listFrom (off + i.length) rest).2.length) := by omega
    rw [listFrom_of_instr (decode_append hi more), listFrom_of_instr hi, ih, hoff, List.cons_append]

/-- A byte that completes the bytes left over adds the event of their instruction, whose last byte it is. -/
theorem listing_concat_of_instr {bytes : List Byte} {b : Byte} {i : Instr}
    (h : decode ((listing bytes).2 ++ [b]) = .instr i []) :
    listing (bytes ++ [b]) = ((listing bytes).1 ++ [instrOutput bytes.length i], []) := by
  have hlen := length_of_decode_eq h
  have hleft := length_listFrom_left_le 0 bytes
  rw [listing_eq_listFrom] at h hlen
  simp only [List.length_append, List.length_singleton, List.length_nil] at hlen
  have hlast : 0 + (bytes.length - (listFrom 0 bytes).2.length) + i.length - 1 = bytes.length := by omega
  rw [listing_eq_listFrom, listing_eq_listFrom, listFrom_append, listFrom_of_instr h, listFrom_nil, hlast]

/-- A byte that does not complete them is left over too. -/
theorem listing_concat_of_rejected {bytes : List Byte} {b : Byte} {r : Rejection}
    (h : decode ((listing bytes).2 ++ [b]) = .rejected r) :
    listing (bytes ++ [b]) = ((listing bytes).1, (listing bytes).2 ++ [b]) := by
  rw [listing_eq_listFrom] at h
  rw [listing_eq_listFrom, listing_eq_listFrom, listFrom_append, listFrom_of_rejected h, List.append_nil]

end Machine

end Sys2Proof
end

section
/-! The invariant (R23): it holds after reset and every step keeps it. -/

namespace Sys2Proof.Machine

theorem State.closing_of_running {s : State} (h : s.run = .running) : s.closing = [] := by
  simp [State.closing, h]

theorem State.endExplained_of_running {s : State} (h : s.run = .running) : s.endExplained := by
  simp [State.endExplained, h]

theorem State.lt_of_byteAt {s : State} {k : Nat} {b : Byte} (h : s.byteAt k = some b) : k < s.source.stream.length :=
  (List.getElem?_eq_some_iff.mp h).1

/-- R14: a byte read is one more byte consumed. -/
theorem State.consumed_of_byte {s t : State} {b : Byte} (hb : s.byteAt s.cursor = some b) (hsource : t.source = s.source)
    (hcursor : t.cursor = s.cursor + 1) : t.consumed = s.consumed ++ [b] := by
  rw [State.consumed, State.consumed, hsource, hcursor, List.take_add_one]
  exact congrArg (_ ++ Option.toList ·) hb

theorem State.length_consumed {s : State} (h : s.cursor ≤ s.source.stream.length) : s.consumed.length = s.cursor :=
  List.length_take_of_le h

namespace State.Accounted

variable {s t : State} {b : Byte} {es : List OutputEvent}

/-- A byte after which the block runs on keeps the account, if the listing of the longer sequence is what the block shows. -/
theorem of_byte (hr : t.run = .running) (hb : s.byteAt s.cursor = some b) (hsource : t.source = s.source)
    (hcursor : t.cursor = s.cursor + 1) (hlisting : listing (s.consumed ++ [b]) = (es, t.fsm.held))
    (htrace : t.trace = header ++ es) : t.Accounted := by
  have hlt := State.lt_of_byteAt hb
  refine ⟨?cursor, ?held, ?trace, State.endExplained_of_running hr⟩
  case cursor => rw [hsource, hcursor]; omega
  case held => rw [State.consumed_of_byte hb hsource hcursor, hlisting]
  case trace =>
    rw [State.consumed_of_byte hb hsource hcursor, hlisting, State.closing_of_running hr, htrace, List.append_nil]

/-- An ending, which moves neither the cursor nor the framer, keeps the account if it puts out what closes the run. -/
theorem of_ending (h : s.Accounted) (hr : s.run = .running) (hsource : t.source = s.source) (hcursor : t.cursor = s.cursor)
    (hfsm : t.fsm = s.fsm) (htrace : t.trace = s.trace ++ t.closing) (hend : t.endExplained) : t.Accounted := by
  have hconsumed : t.consumed = s.consumed := by rw [State.consumed, State.consumed, hsource, hcursor]
  refine ⟨?cursor, ?held, ?trace, hend⟩
  case cursor => rw [hsource, hcursor]; exact h.cursor_le
  case held => rw [hconsumed, hfsm]; exact h.left_held
  case trace => rw [hconsumed, htrace, h.trace_eq, State.closing_of_running hr, List.append_nil]

theorem cursor_eq_of_no_byte (h : s.Accounted) (hnone : s.byteAt s.cursor = none) :
    s.cursor = s.source.stream.length :=
  h.cursor_le.antisymm (State.byteAt_eq_none_iff.mp hnone)

/-- Each of the five reactions keeps the account. -/
theorem reaction (h : s.Accounted) (hr : s.run = .running) (hreact : Reaction s t) : t.Accounted := by
  have htrace : s.trace = header ++ (listing s.consumed).1 := by
    rw [h.trace_eq, State.closing_of_running hr, List.append_nil]
  cases hreact with
  | completes hbyte hdecode =>
    rw [← h.left_held] at hdecode
    have hlisting := listing_concat_of_instr hdecode
    rw [State.length_consumed h.cursor_le] at hlisting
    exact of_byte hr hbyte rfl rfl hlisting (by rw [← List.append_assoc, ← htrace]; rfl)
  | latches hbyte hdecode hheld =>
    rw [← h.left_held] at hdecode hheld
    exact of_byte hr hbyte rfl rfl ((listing_concat_of_rejected hdecode).trans (congrArg _ hheld.symm)) htrace
  | endsClean hnone hending hfsm =>
    exact h.of_ending hr rfl rfl rfl rfl ⟨h.cursor_eq_of_no_byte hnone, hending, hfsm⟩
  | truncates hnone hending hfsm =>
    exact h.of_ending hr rfl rfl rfl rfl ⟨h.cursor_eq_of_no_byte hnone, hending, hfsm⟩
  | failsToRead hnone hending =>
    exact h.of_ending hr rfl rfl rfl rfl ⟨h.cursor_eq_of_no_byte hnone, hending⟩

end State.Accounted

/-- Settles O46: nothing is consumed, held or put out but the header. -/
theorem resetIsAccountedFor : Obligations.ResetIsAccountedFor :=
  fun _ => ⟨Nat.zero_le _, rfl, rfl, trivial⟩

/-- Settles O47: every step is one of the five reactions of a running block, and each keeps the account. -/
theorem stepKeepsTheAccount : Obligations.StepKeepsTheAccount :=
  fun _ _ h hstep => h.reaction (running_of_step_next hstep) (reaction_of_step hstep)

end Sys2Proof.Machine
end

section
/-! What every step has in common, by its five reactions (R92, R93, R95), and the diagnostics with their causes (R123 to R133). -/

namespace Sys2Proof.Machine

/-- R92: a block whose run is over takes no step. -/
theorem step_fault {s : State} (h : s.run ≠ .running) : ∃ r, step s = .fault r := by
  cases hr : s.run with
  | running => exact absurd hr h
  | endedClean => exact ⟨.runEndedClean, by simp only [step, eventStep, hr]⟩
  | failed kind => exact ⟨.runFailed kind, by simp only [step, eventStep, hr]⟩

theorem runSteps_succ_of_fault {s : State} {r : Fault} (h : step s = .fault r) (k : Nat) : runSteps (k + 1) s = .fault r := by
  simp only [runSteps, h]

theorem succeeded_iff (s : State) : s.succeeded = true ↔ s.run = .endedClean := by
  cases hr : s.run <;> simp [State.succeeded, RunStatus.exitStatus, hr]

/-- Settles O36: the first step is a fault already. -/
theorem noStepOnceTheRunIsOver : Obligations.NoStepOnceTheRunIsOver := by
  intro s h
  obtain ⟨r, hr⟩ := step_fault h
  exact ⟨fun k => ⟨r, runSteps_succ_of_fault hr k⟩, succeeded_iff s⟩

namespace Reaction

variable {s t : State}

theorem source_eq (h : Reaction s t) : t.source = s.source := by
  cases h <;> rfl

/-- R93. -/
theorem of_byte (h : Reaction s t) {b : Byte} (hb : s.byteAt s.cursor = some b) :
    t.cursor = s.cursor + 1 ∧ t.run = s.run := by
  cases h with
  | completes | latches => exact ⟨rfl, rfl⟩
  | endsClean hnone | truncates hnone | failsToRead hnone => rw [hnone] at hb; cases hb

/-- R95, the ending. -/
theorem of_no_byte (h : Reaction s t) (hb : s.byteAt s.cursor = none) : t.cursor = s.cursor ∧ t.run ≠ .running := by
  cases h with
  | completes hbyte | latches hbyte => rw [hbyte] at hb; cases hb
  | endsClean | truncates | failsToRead => exact ⟨rfl, RunStatus.noConfusion⟩

theorem trace_eq (h : Reaction s t) : ∃ es, t.trace = s.trace ++ es ∧ es.length ≤ 1 := by
  cases h with
  | latches => exact ⟨[], (List.append_nil _).symm, Nat.zero_le 1⟩
  | completes | endsClean | truncates | failsToRead => exact ⟨[_], rfl, le_rfl⟩

end Reaction

/-- R93: a running block with a byte left consumes it and runs on. -/
theorem step_of_lt {s : State} (hr : s.run = .running) (h : s.cursor < s.source.stream.length) :
    ∃ t, step s = .next t ∧ t.cursor = s.cursor + 1 ∧ t.run = .running ∧ t.source = s.source := by
  obtain ⟨t, hstep, hreact⟩ := exists_step_reaction hr
  obtain ⟨hcursor, hrun⟩ := hreact.of_byte (State.byteAt_of_lt h)
  exact ⟨t, hstep, hcursor, hrun.trans hr, hreact.source_eq⟩

/-- R95: the ending closes the run. -/
theorem step_of_ge {s : State} (hr : s.run = .running) (h : s.source.stream.length ≤ s.cursor) :
    ∃ t, step s = .next t ∧ t.cursor = s.cursor ∧ t.run ≠ .running ∧ t.source = s.source := by
  obtain ⟨t, hstep, hreact⟩ := exists_step_reaction hr
  obtain ⟨hcursor, hrun⟩ := hreact.of_no_byte (State.byteAt_eq_none_iff.mpr h)
  exact ⟨t, hstep, hcursor, hrun, hreact.source_eq⟩

/-- Settles O37: the two cases of the read primitive. -/
theorem everyByteAdvancesTheCursorByOne : Obligations.EveryByteAdvancesTheCursorByOne :=
  fun _ hr => ⟨step_of_lt hr, step_of_ge hr⟩

/-- Settles O38: each reaction appends one event or none. -/
theorem stepAddsAtMostOneEvent : Obligations.StepAddsAtMostOneEvent :=
  fun _ _ h => (reaction_of_step h).trace_eq

/-- The only diagnostics of an instruction are the two recoverable ones, at the offset of its last byte (R117, R118). -/
theorem diag_of_instrOutput {last off : Nat} {i : Instr} {kind : ErrorKind} (h : instrOutput last i = .diag kind off) :
    off = last ∧ (kind = .unsupportedOpcode ∨ kind = .unsupportedAddressingMode) := by
  cases i with
  | movRm8R8 | movRm16R16 | movR8Rm8 | movR16Rm16 | movR8Imm8 | movR16Imm16 => cases h
  | movMemMod0 | movMemMod1 | movMemMod2 => cases h; exact ⟨rfl, .inr rfl⟩
  | _ => cases h; exact ⟨rfl, .inl rfl⟩

theorem append_singleton_inj {trace : List OutputEvent} {e e' : OutputEvent} (h : trace ++ [e] = trace ++ [e']) : e = e' :=
  List.singleton_inj.mp (List.append_cancel_left h)

/-- What a step that reports has done: an instruction's recoverable error, or one of the two fatal ends. -/
inductive Report (s : State) : ErrorKind → State → Prop
  | recoverable {b : Byte} {i : Instr} {kind : ErrorKind} (hbyte : s.byteAt s.cursor = some b)
      (hdecode : decode (s.fsm.held ++ [b]) = .instr i []) (houtput : instrOutput s.cursor i = .diag kind s.cursor)
      (hkind : kind = .unsupportedOpcode ∨ kind = .unsupportedAddressingMode) : Report s kind (s.afterInstr i)
  | truncated (hnone : s.byteAt s.cursor = none) (hending : s.source.ending = .endOfStream) (hfsm : s.fsm ≠ .expectOpcode) :
      Report s .truncatedInstruction (s.afterFatal .truncatedInstruction)
  | readError (hnone : s.byteAt s.cursor = none) (hending : s.source.ending = .readError) :
      Report s .sourceReadError (s.afterFatal .sourceReadError)

theorem Reaction.report {s t : State} (h : Reaction s t) {kind : ErrorKind} {off : Nat}
    (htrace : t.trace = s.trace ++ [.diag kind off]) : off = s.cursor ∧ Report s kind t := by
  cases h with
  | completes hbyte hdecode =>
    have houtput := append_singleton_inj htrace
    obtain ⟨rfl, hkind⟩ := diag_of_instrOutput houtput
    exact ⟨rfl, .recoverable hbyte hdecode houtput hkind⟩
  | latches => exact absurd (List.self_eq_append_right.mp htrace) (List.cons_ne_nil _ _)
  | endsClean => cases append_singleton_inj htrace
  | truncates hnone hending hfsm =>
    cases append_singleton_inj htrace
    exact ⟨rfl, .truncated hnone hending hfsm⟩
  | failsToRead hnone hending =>
    cases append_singleton_inj htrace
    exact ⟨rfl, .readError hnone hending⟩

/-- Settles O39: the three kinds of report, each with its whole state. -/
theorem diagnosticRecordsKindAndOffset : Obligations.DiagnosticRecordsKindAndOffset := by
  intro s t kind off hstep htrace
  obtain ⟨hoff, hreport⟩ := (reaction_of_step hstep).report htrace
  refine ⟨hoff, ?_⟩
  cases hreport with
  | recoverable _ _ _ hkind =>
    have hrun := running_of_step_next hstep
    rcases hkind with rfl | rfl
    · exact ⟨by decide, fun _ => ⟨rfl, hrun, rfl⟩, nofun⟩
    · exact ⟨by decide, fun _ => ⟨rfl, hrun, rfl⟩, nofun⟩
  | truncated => exact ⟨by decide, nofun, fun _ => ⟨rfl, rfl, rfl⟩⟩
  | readError => exact ⟨by decide, nofun, fun _ => ⟨rfl, rfl, rfl⟩⟩

/-- The instruction that a byte completes, by the framer state that it completes it in. -/
theorem completed_cases {f : Fsm} {b : Byte} {i : Instr} (h : decode (f.held ++ [b]) = .instr i []) :
    (f = .expectOpcode ∧ classify b = .unsupported ∧ i = unsupportedInstr b) ∨
      (∃ d w, f = .expectModRM d w ∧ i = regMemInstr d w b) ∨
      (∃ reg, f = .expectImmediateLow 0 reg ∧ i = .movR8Imm8 reg b) ∨
      ∃ reg lo, f = .expectImmediateHigh reg lo ∧ i = .movR16Imm16 reg lo b := by
  cases f with
  | expectOpcode =>
    rcases decode_cases h with ⟨hform, -, rfl⟩ | ⟨d, w, m, -, hmore, -⟩ | ⟨reg, lo, -, hmore, -⟩ | ⟨reg, lo, hi, -, hmore, -⟩
    · exact .inl ⟨rfl, hform, rfl⟩
    all_goals cases hmore
  | expectModRM d w =>
    cases h.symm.trans (decode_of_classify_regMemMove (classify_regMemByte d w) b [])
    exact .inr (.inl ⟨d, w, rfl, rfl⟩)
  | expectImmediateLow w reg =>
    rcases decode_cases h with
      ⟨hform, hmore, -⟩ | ⟨d, w, m, hform, -⟩ | ⟨reg', lo, hform, hmore, rfl⟩ | ⟨reg, lo, hi, -, hmore, -⟩
    · cases hmore
    · rw [classify_immediateByte] at hform; cases hform
    · rw [classify_immediateByte] at hform
      cases hform
      cases hmore
      exact .inr (.inr (.inl ⟨reg, rfl, rfl⟩))
    · cases hmore
  | expectImmediateHigh reg lo =>
    cases h.symm.trans (decode_of_classify_immediate16 (classify_immediateByte 1 reg) lo b [])
    exact .inr (.inr (.inr ⟨reg, lo, rfl, rfl⟩))

theorem instrOutput_unsupportedInstr (last : Nat) (b : Byte) :
    instrOutput last (unsupportedInstr b) = .diag .unsupportedOpcode last := by
  unfold unsupportedInstr
  repeat' split
  all_goals rfl

theorem instrOutput_registerRow (last : Nat) (d w : Bit) (reg rm : Sel) :
    ∃ text, instrOutput last (registerRow d w reg rm) = .line text := by
  cases d, w using bits_cases <;> exact ⟨_, rfl⟩

/-- R118: a second byte is reported exactly if its MOD is not 3, and as an unsupported mode. -/
theorem diag_of_regMemInstr {last off : Nat} {d w : Bit} {m : Byte} {kind : ErrorKind}
    (h : instrOutput last (regMemInstr d w m) = .diag kind off) : kind = .unsupportedAddressingMode ∧ m.toNat / 64 ≠ 3 := by
  refine ⟨?kind, fun hmod => ?mod⟩
  case kind =>
    unfold regMemInstr at h
    dsimp only at h
    repeat' split at h
    all_goals cases h
    all_goals rfl
  case mod =>
    obtain ⟨text, htext⟩ := instrOutput_registerRow last d w (BitVec.ofNat 3 (m.toNat / 8)) (BitVec.ofNat 3 m.toNat)
    rw [regMemInstr_of_mod_three d w hmod, htext] at h
    cases h

theorem unsupportedOpcode_iff {s t : State} (h : step s = .next t) :
    (∃ off, t.trace = s.trace ++ [.diag .unsupportedOpcode off]) ↔
      s.fsm = .expectOpcode ∧ ∃ b, s.byteAt s.cursor = some b ∧ classify b = .unsupported := by
  constructor
  · rintro ⟨off, htrace⟩
    obtain ⟨-, hreport⟩ := (reaction_of_step h).report htrace
    cases hreport with
    | recoverable hbyte hdecode houtput =>
      rcases completed_cases hdecode with ⟨hf, hform, -⟩ | ⟨d, w, -, rfl⟩ | ⟨reg, -, rfl⟩ | ⟨reg, lo, -, rfl⟩
      · exact ⟨hf, _, hbyte, hform⟩
      · cases (diag_of_regMemInstr houtput).1
      · cases houtput
      · cases houtput
  · rintro ⟨hf, b, hb, hform⟩
    have hafter := (firstByteTransition s b (running_of_step_next h) hf hb).2.2 hform
    cases h.symm.trans hafter
    exact ⟨s.cursor, rfl⟩

theorem unsupportedAddressingMode_iff {s t : State} (h : step s = .next t) :
    (∃ off, t.trace = s.trace ++ [.diag .unsupportedAddressingMode off]) ↔
      (∃ d w, s.fsm = .expectModRM d w) ∧ ∃ m, s.byteAt s.cursor = some m ∧ m.toNat / 64 ≠ 3 := by
  constructor
  · rintro ⟨off, htrace⟩
    obtain ⟨-, hreport⟩ := (reaction_of_step h).report htrace
    cases hreport with
    | recoverable hbyte hdecode houtput =>
      rcases completed_cases hdecode with ⟨-, -, rfl⟩ | ⟨d, w, hf, rfl⟩ | ⟨reg, -, rfl⟩ | ⟨reg, lo, -, rfl⟩
      · rw [instrOutput_unsupportedInstr] at houtput; cases houtput
      · exact ⟨⟨d, w, hf⟩, _, hbyte, (diag_of_regMemInstr houtput).2⟩
      · cases houtput
      · cases houtput
  · rintro ⟨⟨d, w, hf⟩, m, hb, hmod⟩
    have hafter := (secondByteTransition s d w m (running_of_step_next h) hf hb).2 (resolveOperands_of_mod_ne_three d w hmod)
    cases h.symm.trans hafter
    exact ⟨s.cursor, rfl⟩

theorem truncatedInstruction_iff {s t : State} (h : step s = .next t) :
    (∃ off, t.trace = s.trace ++ [.diag .truncatedInstruction off]) ↔
      s.fsm ≠ .expectOpcode ∧ s.byteAt s.cursor = none ∧ s.source.ending = .endOfStream := by
  constructor
  · rintro ⟨off, htrace⟩
    obtain ⟨-, hreport⟩ := (reaction_of_step h).report htrace
    cases hreport with
    | recoverable _ _ _ hkind => simp at hkind
    | truncated hnone hending hfsm => exact ⟨hfsm, hnone, hending⟩
  · rintro ⟨hf, hnone, he⟩
    cases h.symm.trans (step_truncated (running_of_step_next h) hnone he hf)
    exact ⟨s.cursor, rfl⟩

theorem sourceReadError_iff {s t : State} (h : step s = .next t) :
    (∃ off, t.trace = s.trace ++ [.diag .sourceReadError off]) ↔
      s.byteAt s.cursor = none ∧ s.source.ending = .readError := by
  constructor
  · rintro ⟨off, htrace⟩
    obtain ⟨-, hreport⟩ := (reaction_of_step h).report htrace
    cases hreport with
    | recoverable _ _ _ hkind => simp at hkind
    | readError hnone hending => exact ⟨hnone, hending⟩
  · rintro ⟨hnone, he⟩
    cases h.symm.trans (step_readError (running_of_step_next h) hnone he)
    exact ⟨s.cursor, rfl⟩

/-- Settles O40: each kind's cause is its own lemma; the policies are those of `diagnosticRecordsKindAndOffset`. -/
theorem errorsHaveExactlyTheirCauses : Obligations.ErrorsHaveExactlyTheirCauses := by
  intro s t h
  refine ⟨unsupportedOpcode_iff h, unsupportedAddressingMode_iff h, truncatedInstruction_iff h, sourceReadError_iff h,
    fun kind off htrace => ⟨fun hkind => ?recoverable, fun hkind => ?fatal⟩⟩
  all_goals obtain ⟨-, -, hrecoverable, hfatal⟩ := diagnosticRecordsKindAndOffset s t kind off h htrace
  case recoverable =>
    obtain ⟨hfsm, hrun, hcursor⟩ := hrecoverable (by rcases hkind with rfl | rfl <;> rfl)
    exact ⟨hrun, hfsm, hcursor⟩
  case fatal =>
    obtain ⟨hfsm, hrun, -⟩ := hfatal (by rcases hkind with rfl | rfl <;> rfl)
    exact ⟨hrun, by rw [hrun]; rfl, hfsm⟩

end Sys2Proof.Machine
end

section
/-! Whole instructions (R107, R113): the bytes of an instruction but its last only fill the latches, and the last one runs it. -/

namespace Sys2Proof

/-- The bytes of an instruction but its last ones begin no whole instruction. -/
theorem decode_rejected_of_proper_part {i : Instr} {bytes more : List Byte} (h : bytes ++ more = encode i) (hmore : more ≠ []) :
    ∃ r, decode bytes = .rejected r := by
  cases hdecode : decode bytes with
  | rejected r => exact ⟨r, rfl⟩
  | instr j rest =>
    have hwhole := decode_encode i []
    rw [List.append_nil, ← h, decode_append hdecode more] at hwhole
    obtain ⟨-, hrest⟩ := Decoded.instr.inj hwhole
    exact absurd (List.append_eq_nil_iff.mp hrest).2 hmore

theorem decode_encode_self (i : Instr) : decode (encode i) = .instr i [] := by
  rw [← decode_encode i [], List.append_nil]

theorem exists_encode_eq_concat (i : Instr) :
    ∃ (bytes : List Byte) (b : Byte), encode i = bytes ++ [b] ∧ i.length = bytes.length + 1 := by
  obtain ⟨hlen, hpos⟩ := encode_length i
  rcases List.eq_nil_or_concat' (encode i) with hnil | ⟨bytes, b, h⟩
  · rw [hnil] at hlen
    exact absurd hlen (Nat.ne_of_lt hpos)
  · exact ⟨bytes, b, h, by rw [← hlen, h, List.length_append, List.length_singleton]⟩

namespace Machine

/-- The framer state whose latches hold given bytes. -/
def Fsm.ofHeld : List Byte → Fsm
  | [] => .expectOpcode
  | [b] =>
    match classify b with
    | .regMemMove d w => .expectModRM d w
    | .immediateToRegMove w reg => .expectImmediateLow w reg
    | .unsupported => .expectOpcode
  | b :: lo :: _ =>
    match classify b with
    | .immediateToRegMove _ reg => .expectImmediateHigh reg lo
    | .regMemMove _ _ => .expectOpcode
    | .unsupported => .expectOpcode

theorem Fsm.ofHeld_held (f : Fsm) : Fsm.ofHeld f.held = f := by
  cases f <;> simp [Fsm.held, Fsm.ofHeld, classify_regMemByte, classify_immediateByte]

/-- The latches lose nothing: the bytes held determine the framer state (R12). -/
theorem Fsm.held_injective : Function.Injective Fsm.held := Function.LeftInverse.injective Fsm.ofHeld_held

theorem State.byteAt_of_drop {s : State} {k : Nat} {bytes more : List Byte} {b : Byte}
    (h : s.source.stream.drop k = bytes ++ b :: more) : s.byteAt (k + bytes.length) = some b := by
  rw [State.byteAt, ← List.getElem?_drop, h, List.getElem?_append_right le_rfl, Nat.sub_self, List.getElem?_cons_zero]

/-- Bytes of an instruction that are not its last only fill the latches, one step a byte. -/
theorem runSteps_latch {i : Instr} {missing rest : List Byte} (hmissing : missing ≠ []) (bytes : List Byte) {s : State}
    (hr : s.run = .running) (hinstr : s.fsm.held ++ bytes ++ missing = encode i)
    (hahead : s.source.stream.drop s.cursor = bytes ++ rest) :
    ∃ f : Fsm, f.held = s.fsm.held ++ bytes ∧
      runSteps bytes.length s = .next { s with fsm := f, cursor := s.cursor + bytes.length } := by
  induction bytes generalizing s with
  | nil => exact ⟨s.fsm, (List.append_nil _).symm, rfl⟩
  | cons b bytes ih =>
    have hb : s.byteAt s.cursor = some b := State.byteAt_of_drop (bytes := []) hahead
    have hpart : s.fsm.held ++ [b] ++ (bytes ++ missing) = encode i := by simpa using hinstr
    obtain ⟨r, hrejected⟩ := decode_rejected_of_proper_part hpart (by simp [hmissing])
    obtain ⟨f, hheld, hstep⟩ := step_of_decode_rejected hr hb hrejected
    have hnext : (s.afterLatch f).source.stream.drop (s.afterLatch f).cursor = bytes ++ rest := by
      rw [State.afterLatch, ← List.drop_drop, hahead]; rfl
    obtain ⟨g, hg, hrun⟩ := ih (s := s.afterLatch f) hr (by simpa [State.afterLatch, hheld] using hinstr) hnext
    refine ⟨g, by simpa [State.afterLatch, hheld] using hg, ?_⟩
    rw [List.length_cons, runSteps_succ_of_step hstep, hrun, State.afterLatch]
    simp only [Nat.add_assoc, Nat.add_comm 1]

/-- Settles O41: the bytes but the last fill the latches, the last one completes the instruction. -/
theorem instructionRunsFromItsBytes : Obligations.InstructionRunsFromItsBytes := by
  intro i s rest hr hf hahead
  obtain ⟨bytes, b, hencode, hlen⟩ := exists_encode_eq_concat i
  rw [hencode, List.append_assoc, List.singleton_append] at hahead
  have hheld : s.fsm.held = [] := (Fsm.held_eq_nil_iff _).mpr hf
  obtain ⟨f, hfheld, hrun⟩ := runSteps_latch (List.cons_ne_nil b []) bytes hr (by rw [hheld, hencode, List.nil_append]) hahead
  have hbyte := State.byteAt_of_drop hahead
  have hdecode : decode (f.held ++ [b]) = .instr i [] := by
    rw [hfheld, hheld, List.nil_append, ← hencode, decode_encode_self]
  have hstep := (step_of_decode_instr (s := { s with fsm := f, cursor := s.cursor + bytes.length }) hr hbyte hdecode).trans
    (exec_eq i _)
  rw [hlen, runSteps_add hrun, runSteps_one_of_step hstep, State.afterInstr, hf]
  rfl

/-- The framer after all bytes of a decoded instruction but the last holds those bytes (R48). -/
theorem awaitingLastByte_of_decode {bytes rest : List Byte} {i : Instr} (h : decode bytes = .instr i rest) :
    ∃ f b, awaitingLastByte bytes = (f, f.held.length) ∧ encode i = f.held ++ [b] := by
  cases bytes with
  | nil => cases h
  | cons b bytes =>
    rcases decode_cases h with
      ⟨hform, -, rfl⟩ | ⟨d, w, m, hform, rfl, rfl⟩ | ⟨reg, lo, hform, rfl, rfl⟩ | ⟨reg, lo, hi, hform, rfl, rfl⟩
    · exact ⟨.expectOpcode, b, by rw [awaitingLastByte, hform]; rfl, encode_unsupportedInstr b hform⟩
    · exact ⟨.expectModRM d w, m, by rw [awaitingLastByte, hform]; rfl, encode_regMemInstr d w m⟩
    · exact ⟨.expectImmediateLow 0 reg, lo, by rw [awaitingLastByte, hform]; rfl, rfl⟩
    · exact ⟨.expectImmediateHigh reg lo, hi, by rw [awaitingLastByte, hform]; rfl, rfl⟩

/-- Three bytes always begin a whole instruction (R29, R48). -/
theorem exists_decode_tableBytes (nbits w : Nat) : ∃ i rest, decode (tableBytes nbits w) = .instr i rest := by
  rw [tableBytes]
  generalize tableByte nbits w 0 = b0
  cases hform : classify b0 with
  | unsupported => exact ⟨_, _, decode_of_classify_unsupported hform _⟩
  | regMemMove d w => exact ⟨_, _, decode_of_classify_regMemMove hform _ _⟩
  | immediateToRegMove w reg =>
    obtain rfl | rfl := BitVec.eq_zero_or_eq_one w
    · exact ⟨_, _, decode_of_classify_immediate8 hform _ _⟩
    · exact ⟨_, _, decode_of_classify_immediate16 hform _ _ _⟩

theorem drop_placeBytes (stream : List Byte) (k : Nat) (bytes : List Byte) :
    (placeBytes stream k bytes).drop k = bytes ++ stream.drop (k + bytes.length) := by
  have hbefore : (stream.take k ++ List.replicate (k - stream.length) (0 : Byte)).length = k := by
    rw [List.length_append, List.length_take, List.length_replicate]
    omega
  rw [placeBytes, List.append_assoc (_ ++ _) bytes]
  exact List.drop_left' hbefore

/-- A block at an instruction boundary with bytes placed at its cursor. -/
def State.atPlaced (bytes : List Byte) (s : State) : State :=
  { s with
    source := { s.source with stream := placeBytes s.source.stream s.cursor bytes }
    fsm := .expectOpcode
    run := .running }

/-- The next step of the placed state runs the instruction, and the steps of the earlier bytes lead to it. -/
theorem placeInstruction_of_decode {bytes rest : List Byte} {i : Instr} (h : decode bytes = .instr i rest) (s : State) :
    step (s.placeInstruction bytes) = exec i (s.placeInstruction bytes) ∧
      runSteps (i.length - 1) (s.atPlaced bytes) = .next (s.placeInstruction bytes) := by
  obtain ⟨f, b, hawait, hencode⟩ := awaitingLastByte_of_decode h
  have hplaced : s.placeInstruction bytes =
      { s.atPlaced bytes with fsm := f, cursor := s.cursor + f.held.length } := by
    rw [State.placeInstruction, hawait]; rfl
  obtain ⟨more, hahead⟩ : ∃ more, (s.atPlaced bytes).source.stream.drop s.cursor = f.held ++ b :: more := by
    have hbytes : bytes = f.held ++ b :: rest := by
      rw [← encode_append_of_decode h, hencode, List.append_assoc, List.singleton_append]
    exact ⟨rest ++ s.source.stream.drop (s.cursor + bytes.length), by
      rw [State.atPlaced, drop_placeBytes, hbytes, List.append_assoc, List.cons_append]⟩
  have hlen : i.length - 1 = f.held.length := by
    rw [← (encode_length i).1, hencode, List.length_append, List.length_singleton, Nat.add_sub_cancel]
  rw [hplaced, hlen]
  refine ⟨step_of_decode_instr rfl (State.byteAt_of_drop hahead) (by rw [← hencode, decode_encode_self]), ?run⟩
  case run =>
    obtain ⟨g, hg, hrun⟩ := runSteps_latch (s := s.atPlaced bytes) (List.cons_ne_nil b []) f.held rfl hencode.symm hahead
    obtain rfl := Fsm.held_injective hg
    exact hrun

/-- Settles O42: it is `placeInstruction_of_decode` at the three bytes of a table word, which always decode. -/
theorem fetchWordRunsTheTableWord : Obligations.FetchWordRunsTheTableWord := by
  intro s nbits w
  obtain ⟨i, rest, hdecode⟩ := exists_decode_tableBytes nbits w
  exact ⟨i, by rw [decodeTableWord, hdecode], placeInstruction_of_decode hdecode s⟩

end Machine

end Sys2Proof
end

section
/-! Runs from reset (R96, R151): one step a byte and one for the ending, which is the fold over the events. -/

namespace Sys2Proof.Machine

/-- While bytes are left, each step consumes one and the block runs on. -/
theorem runSteps_bytes {s : State} (hr : s.run = .running) (k : Nat) (hk : s.cursor + k ≤ s.source.stream.length) :
    ∃ t, runSteps k s = .next t ∧ t.run = .running ∧ t.cursor = s.cursor + k ∧ t.source = s.source := by
  induction k generalizing s with
  | zero => exact ⟨s, rfl, hr, rfl, rfl⟩
  | succ k ih =>
    obtain ⟨t, hstep, hcursor, hrun, hsource⟩ := step_of_lt hr (by omega)
    obtain ⟨u, hsteps, hurun, hucursor, husource⟩ := ih (s := t) hrun (by rw [hsource, hcursor]; omega)
    exact ⟨u, (runSteps_succ_of_step hstep).trans hsteps, hurun, by omega, husource.trans hsource⟩

/-- R96: from reset the run is over after one step a byte and one for the ending. -/
theorem exists_final (src : Source) : ∃ t, runSteps (src.stream.length + 1) (State.resetWith src) = .next t ∧
    t.run ≠ .running ∧ t.cursor = src.stream.length ∧ t.source = src := by
  obtain ⟨s, hsteps, hrun, hcursor, hsource⟩ :=
    runSteps_bytes (s := State.resetWith src) rfl src.stream.length (Nat.zero_add _).le
  rw [State.resetWith_cursor, Nat.zero_add] at hcursor
  obtain ⟨t, hstep, htcursor, htrun, htsource⟩ := step_of_ge hrun (by rw [hsource, hcursor]; rfl)
  exact ⟨t, (runSteps_add hsteps 1).trans (runSteps_one_of_step hstep), htrun, htcursor.trans hcursor, htsource.trans hsource⟩

/-- Settles O43: the bytes, the ending, and the fault after it. -/
theorem runTakesOneStepPerEvent : Obligations.RunTakesOneStepPerEvent := by
  intro src
  obtain ⟨t, hsteps, hrun, hcursor, -⟩ := exists_final src
  refine ⟨fun k hk => ?bytes, ⟨t, hsteps, hrun, hcursor⟩, fun k => ?after⟩
  case bytes =>
    obtain ⟨u, husteps, hurun, hucursor, -⟩ := runSteps_bytes (s := State.resetWith src) rfl k ((Nat.zero_add k).trans_le hk)
    exact ⟨u, husteps, hurun, hucursor.trans (Nat.zero_add k)⟩
  case after =>
    obtain ⟨r, hr⟩ := step_fault hrun
    have hcount : src.stream.length + 2 + k = src.stream.length + 1 + (k + 1) := by omega
    exact ⟨r, by rw [hcount, runSteps_add hsteps, runSteps_succ_of_fault hr]⟩

theorem foldEvents_cons_of_next {e : InputEvent} {s t : State} (h : eventStep e s = .next t) (rest : List InputEvent) :
    foldEvents (e :: rest) s = foldEvents rest t := by
  simp only [foldEvents, h]

/-- The events still to come, folded, are the machine's own steps. -/
theorem foldEvents_eq_runSteps (ahead : List Byte) {s : State} (hr : s.run = .running)
    (hahead : s.source.stream.drop s.cursor = ahead) :
    foldEvents (ahead.map .byte ++ [s.source.ending.event]) s = runSteps (ahead.length + 1) s := by
  induction ahead generalizing s with
  | nil =>
    obtain ⟨t, hstep, -⟩ := step_of_ge hr (List.drop_eq_nil_iff.mp hahead)
    have hread : s.nextEvent = s.source.ending.event :=
      State.nextEvent_ending (State.byteAt_eq_none_iff.mpr (List.drop_eq_nil_iff.mp hahead))
    rw [List.length_nil, runSteps_one_of_step hstep]
    exact foldEvents_cons_of_next ((step_of_nextEvent hread).symm.trans hstep) []
  | cons b ahead ih =>
    have hb : s.byteAt s.cursor = some b := State.byteAt_of_drop (bytes := []) hahead
    obtain ⟨t, hstep, hcursor, hrun, hsource⟩ := step_of_lt hr (State.lt_of_byteAt hb)
    have hread := step_of_nextEvent (State.nextEvent_byte hb)
    have hnext : t.source.stream.drop t.cursor = ahead := by
      rw [hsource, hcursor, ← List.drop_drop, hahead]; rfl
    rw [List.length_cons, runSteps_succ_of_step hstep, ← ih hrun hnext, hsource]
    exact foldEvents_cons_of_next (hread.symm.trans hstep) _

/-- Settles O44: from reset all events are still to come. -/
theorem runIsTheFoldOverTheEvents : Obligations.RunIsTheFoldOverTheEvents :=
  fun src => foldEvents_eq_runSteps src.stream (s := State.resetWith src) rfl rfl

end Sys2Proof.Machine
end

section
/-! The instructions of a listing, and the lines and diagnostics of a trace. -/

namespace Sys2Proof.Machine

/-- The events of instructions whose first byte is at offset `off`. -/
def outputs : Nat → List Instr → List OutputEvent
  | _, [] => []
  | off, i :: is => instrOutput (off + i.length - 1) i :: outputs (off + i.length) is

/-- The listing of whole instructions and of bytes that begin none. -/
theorem listFrom_flatMap_append {left : List Byte} {r : Rejection} (h : decode left = .rejected r) (is : List Instr) (off : Nat) :
    listFrom off (is.flatMap encode ++ left) = (outputs off is, left) := by
  induction is generalizing off with
  | nil => exact listFrom_of_rejected h
  | cons i is ih =>
    rw [List.flatMap_cons, List.append_assoc, listFrom_of_instr (decode_encode i _), ih, outputs]

/-- Every byte sequence is whole instructions and bytes that begin none. -/
theorem exists_instrs (bytes : List Byte) : ∃ is left r, bytes = List.flatMap encode is ++ left ∧ decode left = .rejected r := by
  induction bytes using decode_induction with
  | rejected bytes r h => exact ⟨[], bytes, r, rfl, h⟩
  | instr bytes i rest h ih =>
    obtain ⟨is, left, r, hrest, hleft⟩ := ih
    refine ⟨i :: is, left, r, ?_, hleft⟩
    rw [← encode_append_of_decode h, hrest, List.flatMap_cons, List.append_assoc]

/-- The listing's two parts, by the instructions that the bytes are. -/
theorem exists_listing_eq (bytes : List Byte) :
    ∃ is : List Instr, bytes = is.flatMap encode ++ (listing bytes).2 ∧ (listing bytes).1 = outputs 0 is := by
  obtain ⟨is, left, r, rfl, hleft⟩ := exists_instrs bytes
  rw [listing_eq_listFrom, listFrom_flatMap_append hleft]
  exact ⟨is, rfl, rfl⟩

theorem listing_flatMap (is : List Instr) : listing (is.flatMap encode) = (outputs 0 is, []) := by
  have hnil : decode [] = .rejected .noBytes := rfl
  rw [← List.append_nil (is.flatMap encode), listing_eq_listFrom, listFrom_flatMap_append hnil]

/-- Every instruction has a byte at least and puts out one event. -/
theorem length_outputs_le (is : List Instr) (off : Nat) : (outputs off is).length ≤ (is.flatMap encode).length := by
  induction is generalizing off with
  | nil => exact le_rfl
  | cons i is ih =>
    obtain ⟨hlen, hpos⟩ := encode_length i
    have := ih (off + i.length)
    rw [outputs, List.flatMap_cons, List.length_cons, List.length_append]
    omega

theorem length_listing_le (bytes : List Byte) : (listing bytes).1.length ≤ bytes.length := by
  obtain ⟨is, hbytes, houtputs⟩ := exists_listing_eq bytes
  have hle := length_outputs_le is 0
  have hlen := congrArg List.length hbytes
  rw [List.length_append] at hlen
  rw [houtputs]
  omega

@[simp] theorem lines_append (xs ys : List OutputEvent) : lines (xs ++ ys) = lines xs ++ lines ys := by
  induction xs with
  | nil => rfl
  | cons e xs ih => cases e <;> simp [lines, ih]

@[simp] theorem diagnostics_append (xs ys : List OutputEvent) : diagnostics (xs ++ ys) = diagnostics xs ++ diagnostics ys := by
  induction xs with
  | nil => rfl
  | cons e xs ih => cases e <;> simp [diagnostics, ih]

theorem textSinkBytes_append (xs ys : List OutputEvent) :
    textSinkBytes (xs ++ ys) = textSinkBytes xs ++ textSinkBytes ys := by
  simp [textSinkBytes]

/-- An instruction of the two families puts out a line, which its offset does not change. -/
theorem instrOutput_of_supported {i : Instr} (h : instrSupported i = true) (last : Nat) :
    instrOutput last i = instrOutput 0 i ∧ ∃ text, instrOutput 0 i = .line text := by
  cases i with
  | movRm8R8 | movRm16R16 | movR8Rm8 | movR16Rm16 | movR8Imm8 | movR16Imm16 => exact ⟨rfl, _, rfl⟩
  | _ => cases h

/-- Any other instruction puts out a diagnostic. -/
theorem instrOutput_of_not_supported {i : Instr} (h : instrSupported i = false) (last : Nat) :
    ∃ kind, instrOutput last i = .diag kind last := by
  cases i with
  | movRm8R8 | movRm16R16 | movR8Rm8 | movR16Rm16 | movR8Imm8 | movR16Imm16 => cases h
  | _ => exact ⟨_, rfl⟩

theorem diagnostics_outputs_eq_nil_iff (is : List Instr) (off : Nat) :
    diagnostics (outputs off is) = [] ↔ ∀ i ∈ is, instrSupported i = true := by
  induction is generalizing off with
  | nil => exact ⟨fun _ => List.forall_mem_nil _, fun _ => rfl⟩
  | cons i is ih =>
    rw [List.forall_mem_cons, ← ih (off + i.length), outputs]
    cases hi : instrSupported i with
    | true =>
      obtain ⟨hoff, text, htext⟩ := instrOutput_of_supported hi (off + i.length - 1)
      rw [hoff, htext, diagnostics, eq_self, true_and]
    | false =>
      obtain ⟨kind, hkind⟩ := instrOutput_of_not_supported hi (off + i.length - 1)
      simp [hkind, diagnostics]

theorem outputs_of_supported {is : List Instr} (h : ∀ i ∈ is, instrSupported i = true) (off : Nat) :
    outputs off is = is.map (instrOutput 0) := by
  induction is generalizing off with
  | nil => rfl
  | cons i is ih =>
    obtain ⟨hi, his⟩ := List.forall_mem_cons.mp h
    rw [outputs, (instrOutput_of_supported hi _).1, ih his, List.map_cons]

end Sys2Proof.Machine
end

section
/-! The states of a run and its last state, by the invariant (R23, R96, R106, R138, R145). -/

namespace Sys2Proof.Machine

theorem accounted_of_run {src : Source} {k : Nat} {s : State} (h : runSteps k (State.resetWith src) = .next s) : s.Accounted :=
  runSteps_induct stepKeepsTheAccount h (resetIsAccountedFor src)

/-- How a run of a source is over, by its ending and the bytes that its listing leaves over (R89, R90, R91). -/
def Source.endStatus (src : Source) : RunStatus :=
  match src.ending with
  | .readError => .failed .sourceReadError
  | .endOfStream => if (listing src.stream).2 = [] then .endedClean else .failed .truncatedInstruction

/-- What the end of a run puts out, by how the run is over (`State.closing` at the stream's length). -/
def Source.closing (src : Source) : List OutputEvent :=
  match src.ending with
  | .readError => [.diag .sourceReadError src.stream.length]
  | .endOfStream =>
    if (listing src.stream).2 = [] then [.line Config.blankText] else [.diag .truncatedInstruction src.stream.length]

/-- A run that is over is over as its source says. -/
theorem State.Accounted.run_eq {t : State} (h : t.Accounted) (hover : t.run ≠ .running) (hall : t.consumed = t.source.stream) :
    t.run = t.source.endStatus := by
  have hend := h.end_explained
  have hleft : (listing t.source.stream).2 = [] ↔ t.fsm = .expectOpcode := by
    rw [← hall, h.left_held, Fsm.held_eq_nil_iff]
  cases hrun : t.run with
  | running => exact absurd hrun hover
  | endedClean =>
    simp only [State.endExplained, hrun] at hend
    obtain ⟨-, he, hf⟩ := hend
    simp only [Source.endStatus, he, if_pos (hleft.mpr hf)]
  | failed kind =>
    cases kind with
    | truncatedInstruction =>
      simp only [State.endExplained, hrun] at hend
      obtain ⟨-, he, hf⟩ := hend
      simp only [Source.endStatus, he, if_neg (mt hleft.mp hf)]
    | sourceReadError =>
      simp only [State.endExplained, hrun] at hend
      simp only [Source.endStatus, hend.2]
    | unsupportedOpcode | unsupportedAddressingMode | sourceUnavailable =>
      simp only [State.endExplained, hrun] at hend

theorem State.closing_eq {t : State} (hrun : t.run = t.source.endStatus) (hcursor : t.cursor = t.source.stream.length) :
    t.closing = t.source.closing := by
  rw [State.closing, hrun, Source.endStatus, Source.closing, hcursor]
  cases t.source.ending with
  | readError => rfl
  | endOfStream => by_cases h : (listing t.source.stream).2 = [] <;> simp [h]

/-- R96: what `Run` answers, whatever the source. -/
theorem runSource_final (src : Source) : ∃ t, runSource src = .next t ∧ t.run = src.endStatus ∧
    t.trace = header ++ (listing src.stream).1 ++ src.closing := by
  obtain ⟨t, hsteps, hover, hcursor, rfl⟩ := exists_final src
  have haccount := accounted_of_run hsteps
  have hall : t.consumed = t.source.stream := by rw [State.consumed, hcursor, List.take_length]
  have hrun := haccount.run_eq hover hall
  exact ⟨t, (runIsTheFoldOverTheEvents _).trans hsteps, hrun, by rw [haccount.trace_eq, hall, State.closing_eq hrun hcursor]⟩

/-- The same for the state that `Run` answers. -/
theorem of_runSource {src : Source} {t : State} (h : runSource src = .next t) :
    t.run = src.endStatus ∧ t.trace = header ++ (listing src.stream).1 ++ src.closing := by
  obtain ⟨u, hu, hfacts⟩ := runSource_final src
  cases h.symm.trans hu
  exact hfacts

theorem Source.endStatus_eq_endedClean_iff (src : Source) :
    src.endStatus = .endedClean ↔ src.ending = .endOfStream ∧ (listing src.stream).2 = [] := by
  rw [Source.endStatus]
  cases src.ending with
  | readError => simp
  | endOfStream => by_cases h : (listing src.stream).2 = [] <;> simp [h]

/-- R89, R105: only a clean end puts out the trailer. -/
theorem Source.closing_of_clean {src : Source} (he : src.ending = .endOfStream) (hleft : (listing src.stream).2 = []) :
    src.closing = [.line Config.blankText] := by
  simp only [Source.closing, he, if_pos hleft]

/-- Only a clean end puts out no diagnostic. -/
theorem Source.diagnostics_closing_eq_nil_iff (src : Source) :
    diagnostics src.closing = [] ↔ src.ending = .endOfStream ∧ (listing src.stream).2 = [] := by
  rw [Source.closing]
  cases src.ending with
  | readError => simp [diagnostics]
  | endOfStream => by_cases h : (listing src.stream).2 = [] <;> simp [h, diagnostics]

/-- Settles O45: how the run is over, and what it puts out, by the ending and the bytes left over. -/
theorem runOutputIsTheListingOfItsStream : Obligations.RunOutputIsTheListingOfItsStream := by
  intro src
  obtain ⟨t, hrunSource, hrun, htrace⟩ := runSource_final src
  refine ⟨t, hrunSource, fun he => ?readError, fun he hleft => ?clean, fun he hleft => ?truncated⟩
  case readError =>
    simp only [Source.endStatus, he] at hrun
    simp only [Source.closing, he] at htrace
    exact ⟨hrun, htrace⟩
  case clean =>
    rw [Source.closing_of_clean he hleft] at htrace
    exact ⟨hrun.trans (src.endStatus_eq_endedClean_iff.mpr ⟨he, hleft⟩), htrace⟩
  case truncated =>
    simp only [Source.endStatus, he, if_neg hleft] at hrun
    simp only [Source.closing, he, if_neg hleft] at htrace
    exact ⟨hrun, htrace⟩

theorem exit_hostProcess_opened (src : Source) : (hostProcess (.opened src)).exit = src.endStatus.exitStatus := by
  obtain ⟨t, hrunSource, hrun, -⟩ := runSource_final src
  simp only [hostProcess, hrunSource, hrun]

/-- Settles O52: the exit status is that of how the run is over. -/
theorem exitStatusFollowsTheEnd : Obligations.ExitStatusFollowsTheEnd := by
  refine ⟨fun src he hleft => ?clean, fun src he hleft => ?truncated, fun src he => ?readError, rfl⟩
  all_goals rw [exit_hostProcess_opened]
  case clean => rw [src.endStatus_eq_endedClean_iff.mpr ⟨he, hleft⟩]; rfl
  case truncated => simp only [Source.endStatus, he, if_neg hleft, RunStatus.exitStatus]
  case readError => simp only [Source.endStatus, he, RunStatus.exitStatus]

/-- R106: the header at the text sink. -/
theorem textSinkBytes_header : textSinkBytes header = [0x62, 0x69, 0x74, 0x73, 0x20, 0x31, 0x36, 0x0A, 0x0A] := rfl

/-- Settles O51: the header, the lines of the listing and the trailer, each as bytes. -/
theorem cleanRunFeedsTheTextSink : Obligations.CleanRunFeedsTheTextSink := by
  intro src t hrunSource hclean
  obtain ⟨hrun, htrace⟩ := of_runSource hrunSource
  obtain ⟨he, hleft⟩ := src.endStatus_eq_endedClean_iff.mp (hrun.symm.trans hclean)
  rw [htrace, Source.closing_of_clean he hleft, textSinkBytes_append, textSinkBytes_append, textSinkBytes_header]
  rfl

theorem faithful_iff (t : State) : t.faithful = true ↔ diagnostics t.trace = [] := beq_iff_eq

/-- Settles O53: no diagnostic of the listing means supported instructions only, and none of the end a clean one. -/
theorem silentRunIsAFaithfulListing : Obligations.SilentRunIsAFaithfulListing := by
  intro src t hrunSource
  obtain ⟨-, htrace⟩ := of_runSource hrunSource
  have hdiagnostics : diagnostics t.trace = diagnostics (listing src.stream).1 ++ diagnostics src.closing := by
    rw [htrace, diagnostics_append, diagnostics_append]; rfl
  rw [faithful_iff, hdiagnostics, List.append_eq_nil_iff, Source.diagnostics_closing_eq_nil_iff]
  refine ⟨⟨?supported, ?silent⟩, fun is his he hstream => ?trace⟩
  case supported =>
    rintro ⟨hsilent, he, hleft⟩
    obtain ⟨is, hstream, houtputs⟩ := exists_listing_eq src.stream
    rw [hleft, List.append_nil] at hstream
    rw [houtputs, diagnostics_outputs_eq_nil_iff] at hsilent
    exact ⟨he, is, hsilent, hstream⟩
  case silent =>
    rintro ⟨he, is, his, hstream⟩
    rw [hstream, listing_flatMap]
    exact ⟨(diagnostics_outputs_eq_nil_iff is 0).mpr his, he, rfl⟩
  case trace =>
    have hlisting : listing src.stream = (outputs 0 is, []) := by rw [hstream, listing_flatMap]
    rw [htrace, Source.closing_of_clean he (by rw [hlisting]), hlisting, outputs_of_supported his]
    rfl

/-- Settles O49: the invariant's trace begins with the header. -/
theorem headerBeginsEveryTrace : Obligations.HeaderBeginsEveryTrace := by
  intro src k s h
  rw [(accounted_of_run h).trace_eq, List.append_assoc]
  rfl

theorem mem_diagnostics {trace : List OutputEvent} {kind : ErrorKind} {off : Nat} :
    (kind, off) ∈ diagnostics trace ↔ .diag kind off ∈ trace := by
  induction trace with
  | nil => simp [diagnostics]
  | cons e trace ih => cases e <;> simp [diagnostics, ih]

/-- A state in which `SourceUnavailable` is neither reported nor the end. -/
def State.NeverUnavailable (s : State) : Prop :=
  (∀ off : Nat, .diag .sourceUnavailable off ∉ s.trace) ∧ s.run ≠ .failed .sourceUnavailable

/-- The one event of a step is not the report of an unavailable source (R132). -/
theorem neverUnavailable_step (s t : State) (h : s.NeverUnavailable) (hstep : step s = .next t) : t.NeverUnavailable := by
  obtain ⟨htrace, hrun⟩ := h
  have happend (e : OutputEvent) (he : ∀ off, e ≠ .diag .sourceUnavailable off) (off : Nat) :
      .diag .sourceUnavailable off ∉ s.trace ++ [e] := by
    rw [List.mem_append, List.mem_singleton]
    exact not_or.mpr ⟨htrace off, (he off).symm⟩
  cases reaction_of_step hstep with
  | completes =>
    refine ⟨happend _ fun off houtput => ?_, hrun⟩
    rcases (diag_of_instrOutput houtput).2 with hkind | hkind <;> cases hkind
  | latches => exact ⟨htrace, hrun⟩
  | endsClean | truncates | failsToRead => exact ⟨happend _ nofun, nofun⟩

/-- Settles O50: no step reports it, and the unopened process is the host's own. -/
theorem sourceUnavailableIsTheHostsAlone : Obligations.SourceUnavailableIsTheHostsAlone := by
  refine ⟨fun src k s h => ?run, rfl, rfl, rfl⟩
  have hreset : (State.resetWith src).NeverUnavailable := ⟨by simp [header], nofun⟩
  obtain ⟨htrace, hrun⟩ := runSteps_induct neverUnavailable_step h hreset
  exact ⟨fun off => mt mem_diagnostics.mp (htrace off), hrun⟩

/-- R23 (a), (e): the bytes held are the beginning of an instruction that is not complete. -/
theorem Fsm.exists_missing {f : Fsm} (h : f ≠ .expectOpcode) :
    ∃ (i : Instr) (missing : List Byte), missing ≠ [] ∧ encode i = f.held ++ missing := by
  cases f with
  | expectOpcode => exact absurd rfl h
  | expectModRM d w => exact ⟨regMemInstr d w 0, [0], List.cons_ne_nil _ _, encode_regMemInstr d w 0⟩
  | expectImmediateLow w reg =>
    obtain rfl | rfl := BitVec.eq_zero_or_eq_one w
    · exact ⟨.movR8Imm8 reg 0, [0], List.cons_ne_nil _ _, rfl⟩
    · exact ⟨.movR16Imm16 reg 0 0, [0, 0], List.cons_ne_nil _ _, rfl⟩
  | expectImmediateHigh reg lo => exact ⟨.movR16Imm16 reg lo 0, [0], List.cons_ne_nil _ _, rfl⟩

/-- R23 (c): in a running state the number of steps is the number of bytes consumed. -/
theorem cursor_eq_of_running {src : Source} {k : Nat} {s : State} (h : runSteps k (State.resetWith src) = .next s)
    (hr : s.run = .running) : s.cursor = k := by
  obtain ⟨hbytes, ⟨t, ht, hover, -⟩, hafter⟩ := runTakesOneStepPerEvent src
  rcases Nat.lt_trichotomy k (src.stream.length + 1) with hlt | heq | hgt
  · obtain ⟨u, hu, -, hcursor⟩ := hbytes k (Nat.le_of_lt_succ hlt)
    cases h.symm.trans hu
    exact hcursor
  · rw [heq] at h
    cases h.symm.trans ht
    exact absurd hr hover
  · obtain ⟨j, rfl⟩ := Nat.exists_eq_add_of_le hgt
    obtain ⟨r, hfault⟩ := hafter j
    cases h.symm.trans hfault

/-- Settles O48: the latches by the framer state, the rest by the invariant. -/
theorem runningStatesKeepTheSpecInvariants : Obligations.RunningStatesKeepTheSpecInvariants := by
  intro src k s h hr
  have haccount := accounted_of_run h
  have hcursor := cursor_eq_of_running h hr
  have hconsumed := State.length_consumed haccount.cursor_le
  refine ⟨?latW, ?latD, ?latReg, ?latLo, ?width, hcursor, hconsumed.trans hcursor, ?trace, ?instrs,
    (Fsm.held_eq_nil_iff _).mpr, Fsm.exists_missing, ?heldOne, ?heldTwo⟩
  case latW => cases s.fsm <;> simp [Fsm.latW]
  case latD => cases s.fsm <;> simp [Fsm.latD]
  case latReg => cases s.fsm <;> simp [Fsm.latReg]
  case latLo => cases s.fsm <;> simp [Fsm.latLo]
  case width => intro reg lo hf; rw [hf]; rfl
  case trace =>
    refine ⟨(listing s.consumed).1, ?_, hconsumed ▸ length_listing_le s.consumed⟩
    rw [haccount.trace_eq, State.closing_of_running hr, List.append_nil]
  case instrs =>
    obtain ⟨is, hbytes, -⟩ := exists_listing_eq s.consumed
    exact ⟨is, haccount.left_held ▸ hbytes⟩
  case heldOne => rintro (⟨d, w, hf⟩ | ⟨w, reg, hf⟩) <;> rw [hf] <;> rfl
  case heldTwo => rintro ⟨reg, lo, hf⟩; rw [hf]; rfl

end Sys2Proof.Machine
end

section
/-! Two blocks with one future (R97): what is put out from a state on, with offsets counted from the state's cursor. -/

namespace Sys2Proof.Machine

/-- An event with its offset counted from `base` on. -/
def OutputEvent.shift (base : Nat) : OutputEvent → OutputEvent
  | .line text => .line text
  | .diag kind off => .diag kind (base + off)

/-- R133: the offset of a report is counted like the cursor. -/
theorem instrOutput_eq_shift (last : Nat) (i : Instr) : instrOutput last i = (instrOutput 0 i).shift last := by
  cases i <;> rfl

theorem OutputEvent.shift_shift (base n : Nat) (e : OutputEvent) : (e.shift n).shift base = e.shift (base + n) := by
  cases e with
  | line text => rfl
  | diag kind off => exact congrArg (OutputEvent.diag kind) (Nat.add_assoc base n off).symm

theorem lines_map_shift (base : Nat) (es : List OutputEvent) : lines (es.map (OutputEvent.shift base)) = lines es := by
  induction es with
  | nil => rfl
  | cons e es ih => cases e <;> simp [lines, OutputEvent.shift, ih]

theorem diagnostics_map_shift (base : Nat) (es : List OutputEvent) :
    (diagnostics (es.map (OutputEvent.shift base))).map (fun p => (p.1, p.2 - base)) = diagnostics es := by
  induction es with
  | nil => rfl
  | cons e es ih => cases e <;> simp [diagnostics, OutputEvent.shift, ih]

/-- Between `s` and `t`, `n` bytes are consumed and `es` put out, with offsets counted from the cursor of `s`. -/
structure PutsOut (s t : State) (n : Nat) (es : List OutputEvent) : Prop where
  cursor_eq : t.cursor = s.cursor + n
  trace_eq : t.trace = s.trace ++ es.map (OutputEvent.shift s.cursor)

theorem PutsOut.refl (s : State) : PutsOut s s 0 [] := ⟨rfl, (List.append_nil _).symm⟩

theorem PutsOut.trans {s t u : State} {n m : Nat} {es fs : List OutputEvent} (h : PutsOut s t n es) (h' : PutsOut t u m fs) :
    PutsOut s u (n + m) (es ++ fs.map (OutputEvent.shift n)) := by
  obtain ⟨hcursor, htrace⟩ := h
  obtain ⟨hcursor', htrace'⟩ := h'
  refine ⟨by omega, ?_⟩
  have hshift : OutputEvent.shift s.cursor ∘ OutputEvent.shift n = OutputEvent.shift t.cursor := by
    rw [hcursor]
    exact funext (OutputEvent.shift_shift s.cursor n)
  rw [htrace', htrace, List.map_append, List.map_map, hshift, List.append_assoc]

/-- Two states with the same framer state, run status and input to come. -/
structure SameFuture (s₁ s₂ : State) : Prop where
  fsm_eq : s₁.fsm = s₂.fsm
  run_eq : s₁.run = s₂.run
  ending_eq : s₁.source.ending = s₂.source.ending
  ahead_eq : s₁.source.stream.drop s₁.cursor = s₂.source.stream.drop s₂.cursor

namespace SameFuture

variable {s₁ s₂ t₁ : State}

theorem byteAt_eq (h : SameFuture s₁ s₂) : s₁.byteAt s₁.cursor = s₂.byteAt s₂.cursor := by
  rw [State.byteAt, State.byteAt, ← List.head?_drop, ← List.head?_drop, h.ahead_eq]

theorem drop_succ (h : SameFuture s₁ s₂) :
    s₁.source.stream.drop (s₁.cursor + 1) = s₂.source.stream.drop (s₂.cursor + 1) := by
  rw [← List.drop_drop, ← List.drop_drop, h.ahead_eq]

/-- One step from each: the same reaction, which the pasts do not enter. -/
theorem exists_step (h : SameFuture s₁ s₂) (hstep : step s₁ = .next t₁) :
    ∃ t₂ n es, step s₂ = .next t₂ ∧ SameFuture t₁ t₂ ∧ PutsOut s₁ t₁ n es ∧ PutsOut s₂ t₂ n es := by
  have hr : s₂.run = .running := h.run_eq.symm.trans (running_of_step_next hstep)
  cases reaction_of_step hstep with
  | @completes b i hbyte hdecode =>
    rw [h.byteAt_eq] at hbyte
    rw [h.fsm_eq] at hdecode
    have hputs : ∀ s : State, PutsOut s (s.afterInstr i) 1 [instrOutput 0 i] := fun s =>
      ⟨rfl, congrArg (s.trace ++ [·]) (instrOutput_eq_shift s.cursor i)⟩
    exact ⟨s₂.afterInstr i, 1, _, (step_of_decode_instr hr hbyte hdecode).trans (exec_eq i s₂),
      ⟨rfl, h.run_eq, h.ending_eq, h.drop_succ⟩, hputs s₁, hputs s₂⟩
  | @latches b r f hbyte hdecode hheld =>
    rw [h.byteAt_eq] at hbyte
    rw [h.fsm_eq] at hdecode hheld
    obtain ⟨g, hg, hstep₂⟩ := step_of_decode_rejected hr hbyte hdecode
    obtain rfl : g = f := Fsm.held_injective (hg.trans hheld.symm)
    exact ⟨s₂.afterLatch g, 1, [], hstep₂, ⟨rfl, h.run_eq, h.ending_eq, h.drop_succ⟩,
      ⟨rfl, (List.append_nil _).symm⟩, ⟨rfl, (List.append_nil _).symm⟩⟩
  | endsClean hnone hending hfsm =>
    rw [h.byteAt_eq] at hnone
    rw [h.ending_eq] at hending
    exact ⟨s₂.endClean, 0, [.line Config.blankText], step_endClean hr hnone hending (h.fsm_eq ▸ hfsm),
      ⟨h.fsm_eq, rfl, h.ending_eq, h.ahead_eq⟩, ⟨rfl, rfl⟩, ⟨rfl, rfl⟩⟩
  | truncates hnone hending hfsm =>
    rw [h.byteAt_eq] at hnone
    rw [h.ending_eq] at hending
    exact ⟨s₂.afterFatal .truncatedInstruction, 0, [.diag .truncatedInstruction 0],
      step_truncated hr hnone hending (h.fsm_eq ▸ hfsm), ⟨h.fsm_eq, rfl, h.ending_eq, h.ahead_eq⟩, ⟨rfl, rfl⟩, ⟨rfl, rfl⟩⟩
  | failsToRead hnone hending =>
    rw [h.byteAt_eq] at hnone
    rw [h.ending_eq] at hending
    exact ⟨s₂.afterFatal .sourceReadError, 0, [.diag .sourceReadError 0], step_readError hr hnone hending,
      ⟨h.fsm_eq, rfl, h.ending_eq, h.ahead_eq⟩, ⟨rfl, rfl⟩, ⟨rfl, rfl⟩⟩

/-- The same for any number of steps. -/
theorem exists_runSteps (h : SameFuture s₁ s₂) {k : Nat} (hsteps : runSteps k s₁ = .next t₁) :
    ∃ t₂ n es, runSteps k s₂ = .next t₂ ∧ SameFuture t₁ t₂ ∧ PutsOut s₁ t₁ n es ∧ PutsOut s₂ t₂ n es := by
  induction k generalizing s₁ s₂ with
  | zero =>
    cases hsteps
    exact ⟨s₂, 0, [], rfl, h, .refl _, .refl s₂⟩
  | succ k ih =>
    cases hu : step s₁ with
    | next u₁ =>
      rw [runSteps_succ_of_step hu] at hsteps
      obtain ⟨u₂, n, es, hstep₂, hsame, hputs₁, hputs₂⟩ := h.exists_step hu
      obtain ⟨t₂, m, fs, hsteps₂, hsame', hputs₁', hputs₂'⟩ := ih hsame hsteps
      exact ⟨t₂, _, _, (runSteps_succ_of_step hstep₂).trans hsteps₂, hsame', hputs₁.trans hputs₁', hputs₂.trans hputs₂'⟩
    | fault r => rw [runSteps_succ_of_fault hu] at hsteps; cases hsteps
    | refused r => simp only [runSteps, hu] at hsteps; cases hsteps

end SameFuture

/-- What is put out, as lines and as diagnostics at their distance from the cursor. -/
theorem PutsOut.projections {s t : State} {n : Nat} {es : List OutputEvent} (h : PutsOut s t n es) :
    lines (t.trace.drop s.trace.length) = lines es ∧
      (diagnostics (t.trace.drop s.trace.length)).map (fun p => (p.1, p.2 - s.cursor)) = diagnostics es := by
  rw [h.trace_eq, List.drop_left, lines_map_shift, diagnostics_map_shift]
  exact ⟨rfl, rfl⟩

/-- Settles O54: both blocks put out the same events, counted from their own cursors. -/
theorem laterOutputDoesNotDependOnThePast : Obligations.LaterOutputDoesNotDependOnThePast := by
  intro k s₁ s₂ t₁ hfsm hrun hending hahead hsteps
  obtain ⟨t₂, n, es, hsteps₂, hsame, hputs₁, hputs₂⟩ := SameFuture.exists_runSteps ⟨hfsm, hrun, hending, hahead⟩ hsteps
  obtain ⟨hlines₁, hdiagnostics₁⟩ := hputs₁.projections
  obtain ⟨hlines₂, hdiagnostics₂⟩ := hputs₂.projections
  exact ⟨t₂, hsteps₂, hsame.fsm_eq.symm, hsame.run_eq.symm, hlines₂.trans hlines₁.symm,
    hdiagnostics₂.trans hdiagnostics₁.symm⟩

end Sys2Proof.Machine
end

section
/-! Reset (R22) and the informative signals (R24). -/

namespace Sys2Proof.Machine

/-- Settles O1: each component of the reset state is read off. -/
theorem resetLeavesTheSpecValues : Obligations.ResetLeavesTheSpecValues :=
  ⟨fun _ => ⟨rfl, rfl, rfl, rfl, rfl, rfl, rfl, rfl⟩, _, rfl⟩

/-- Every line of an instruction is the line of some operand pair, whose length R106 lists. -/
theorem length_le_of_instrOutput {last : Nat} {i : Instr} {text : Text} (h : instrOutput last i = .line text) :
    text.length ≤ 13 := by
  have hregs : ∀ (w : Bit) (a b : Sel), (renderMov { dst := .reg w a, src := .reg w b }).length ≤ 13 := fun w a b => by
    rw [length_renderMov_regs]; omega
  have himm : ∀ (w : Bit) (reg : Sel) (v : BitVec 16), (renderMov { dst := .reg w reg, src := .imm w v }).length ≤ 13 :=
    fun w reg v => (moveLinesHaveTheSpecLengths.2 w reg v).2
  cases i with
  | movRm8R8 reg rm => cases h; rw [← renderMov_regs8]; exact hregs 0 rm reg
  | movRm16R16 reg rm => cases h; rw [← renderMov_regs16]; exact hregs 1 rm reg
  | movR8Rm8 reg rm => cases h; rw [← renderMov_regs8]; exact hregs 0 reg rm
  | movR16Rm16 reg rm => cases h; rw [← renderMov_regs16]; exact hregs 1 reg rm
  | movR8Imm8 reg lo => cases h; rw [← renderMov_imm8]; exact himm 0 reg _
  | movR16Imm16 reg lo hi => cases h; rw [← renderMov_imm16]; exact himm 1 reg _
  | _ => cases h

/-- R84: a running block answers every event, and a line that it emits has 13 characters at most. -/
theorem exists_eventStep {s : State} (hr : s.run = .running) (e : InputEvent) :
    ∃ t, eventStep e s = .next t ∧ ∀ text, t.trace = s.trace ++ [.line text] → text.length ≤ 13 := by
  cases e with
  | byte b =>
    rw [eventStep_byte hr]
    rcases byteStep_follows_decode b s with ⟨i, -, hstep⟩ | ⟨r, f, -, -, hstep⟩
    · exact ⟨_, hstep.trans (exec_eq i s), fun text htrace => length_le_of_instrOutput (append_singleton_inj htrace)⟩
    · exact ⟨_, hstep, fun text htrace => absurd (List.self_eq_append_right.mp htrace) (List.cons_ne_nil _ _)⟩
  | endOfStream =>
    rw [eventStep_endOfStream hr]
    by_cases hf : s.fsm = .expectOpcode
    · refine ⟨_, endOfStreamStep_expectOpcode hf, fun text htrace => ?_⟩
      cases append_singleton_inj htrace
      exact Nat.zero_le 13
    · refine ⟨_, endOfStreamStep_of_ne hf, fun text htrace => ?_⟩
      cases append_singleton_inj htrace
  | readError =>
    refine ⟨s.afterFatal .sourceReadError, by simp only [eventStep, hr, readErrorStep_eq], fun text htrace => ?_⟩
    cases append_singleton_inj htrace

/-- R24: the three kinds of event. -/
theorem InputSignals.event_eq {p : InputSignals} {e : InputEvent} (hv : p.inValid = true)
    (h : p.inKind = 0 ∧ e = .byte p.inByte ∨ p.inKind = 1 ∧ e = .endOfStream ∨ p.inKind = 2 ∧ e = .readError) :
    p.event = some e := by
  rcases h with ⟨hkind, rfl⟩ | ⟨hkind, rfl⟩ | ⟨hkind, rfl⟩ <;> simp [InputSignals.event, hv, hkind]

/-- A cycle that takes no event presents none, and shows the unchanged state. -/
theorem outputSignals_self (s : State) : (outputSignals s s).lineValid = false ∧ (outputSignals s s).diagValid = false ∧
    (outputSignals s s).inReady = s.inReady ∧ (outputSignals s s).runStatus = s.run := by
  rw [outputSignals_of_silent rfl]
  exact ⟨rfl, rfl, rfl, rfl⟩

/-- Settles O55: the kinds of cycle, and of a step the three kinds of output. -/
theorem signalsFollowTheEvents : Obligations.SignalsFollowTheEvents := by
  intro p s
  refine ⟨State.inReady_iff s, fun hrst => ?reset, fun hrst hidle => ?idle, fun e hrst hv hr hkind => ?event⟩
  case reset =>
    rw [signalStep_of_rst hrst]
    exact ⟨rfl, outputSignals_self s⟩
  case idle =>
    have hunchanged : signalStep p s = (s, outputSignals s s) := by
      rcases hidle with hv | hover
      · exact signalStep_of_no_event hrst (by simp [InputSignals.event, hv]) s
      · exact signalStep_of_not_running hrst hover
    rw [hunchanged]
    exact ⟨rfl, outputSignals_self s⟩
  case event =>
    obtain ⟨t, ht, hlength⟩ := exists_eventStep hr e
    refine ⟨t, ht, ?_⟩
    rw [signalStep_of_next hrst (InputSignals.event_eq hv hkind) ht]
    refine ⟨rfl, fun text htrace => ?line, fun kind off htrace => ?diag, fun htrace => ?silent, outputSignals_inReady s t,
      outputSignals_runStatus s t⟩
    case line =>
      rw [outputSignals_of_line htrace]
      exact ⟨rfl, rfl, hlength text htrace, rfl⟩
    case diag =>
      rw [outputSignals_of_diag htrace]
      exact ⟨rfl, (BitVec.toNat_ofNat kind.code 3).trans (Nat.mod_eq_of_lt kind.code_lt), rfl, rfl⟩
    case silent =>
      rw [outputSignals_of_silent htrace]
      exact ⟨rfl, rfl⟩

end Sys2Proof.Machine
end
